-- ==== Sys2Proof/Word.lean ====
section
/-! DEFINITION. The plain value types of the pacamara Huffman core. -/

namespace Sys2Proof

/-- A byte: the width of `CMD` and of an `OMEM` entry (10_state.md R21, R36). -/
abbrev Byte := BitVec 8

/-- A symbol: an opaque value below `2 ^ SYM_W`, compared for equality only (00_scope.md R17, 30_encoding.md R100).
It is a number because a host writes and reads it as one; no rule orders symbols or computes with them. -/
abbrev Sym := Nat

/-- A bit string, in the order the bits are produced; `false` is the bit 0 (00_scope.md R13). -/
abbrev Bits := List Bool

end Sys2Proof
end

