-- ==== Sys2Proof/Config.lean ====
section
/-! DEFINITION. What an implementation of the block fixes (00_scope.md R7) and the free values the spec leaves open. -/

namespace Sys2Proof

/-- The two free parameters of an instance of the block (00_scope.md R7); every other width and capacity is derived
from them (R8, Machine/Limits.lean). -/
structure Params where
  /-- `SYM_W`: the width of a symbol in bits. -/
  symW : Nat
  /-- `LEN_W`: the width of the input-length register in bits. -/
  lenW : Nat
  deriving DecidableEq, Repr

/-- The default values of R7. -/
def Params.standard : Params := { symW := 8, lenW := 32 }

/-- DESIGN CHOICE (notes/assumptions/13.md; safe): the free values of the model. `freeBits k` is the `k`-th one drawn.
It has no body, so nothing can be proved about which number it is. It stands for the `STATUS` fields other than `BUSY` while a
command runs (10_state.md R22) and for the fields a `NODE` entry's form does not have (10_state.md R44). -/
opaque Config.freeBits : Nat → Nat

end Sys2Proof
end

