-- ==== Sys2Proof/Syntax.lean ====
section
/-! DEFINITION. The commands: one constructor per row of spec/opcode_table.json (30_encoding.md R86). -/

namespace Sys2Proof

/-- The seven commands. None has an operand (30_encoding.md R87). -/
inductive Instr where
  /-- Return to the reset state of the registers (44_encoder_facade.md R188). -/
  | clear
  /-- FrequencyCounter: `IMEM` to `FT` (40_frequency_counter.md R116). -/
  | count
  /-- TreeBuilder: `FT` to `TREE` (41_tree_builder.md R137). -/
  | build
  /-- CodeAssigner: `TREE` to `CT` (42_code_assigner.md R154). -/
  | assign
  /-- BitPacker: `IMEM` and `CT` to `OUT` (43_bit_packer.md R173). -/
  | pack
  /-- Encoder facade: the four above in sequence (44_encoder_facade.md R185). -/
  | encode
  /-- Decoder: `OMEM` and `CT` to `DEC` (45_decoder.md R202). -/
  | decode
  deriving DecidableEq, Repr

end Sys2Proof
end

