-- ==== Sys2Proof/WellFormed.lean ====
section
/-! DEFINITION. Which command words and which commands are well-formed (30_encoding.md R85, R87). The well-formedness of
host-loaded tables, `WF_FT` and `WF_CT`, is in Machine/Operands.lean, beside the commands that check it. -/

namespace Sys2Proof

/-- R85: bits 7:3 of a command word are zero. -/
def highBitsZero (w : Byte) : Bool := w.toNat / 8 == 0

/-- R86, R88: the opcode field, bits 2:0, names a command; 0 names none. -/
def opcodeNamed (w : Byte) : Bool := w.toNat % 8 != 0

/-- A word is a well-formed command word when both checks pass: exactly the seven words of R86. -/
def wellFormedWord (w : Byte) : Bool := highBitsZero w && opcodeNamed w

/-- R87: a command has no operand, immediate or register field, so nothing in it can be ill-formed. -/
def Instr.wellFormed : Instr → Bool
  | .clear => true
  | .count => true
  | .build => true
  | .assign => true
  | .pack => true
  | .encode => true
  | .decode => true

end Sys2Proof
end

