-- ==== Sys2Proof/Decode.lean ====
section
/-! DEFINITION. Command words to commands and back (30_encoding.md R85, R86, R88). The formats of memory entries (R89 to R92)
are in Machine/Entries.lean. -/

namespace Sys2Proof

/-- Why a word is illegal (30_encoding.md R88). The block reports both the same way, `IllegalCommand` (60_exceptions.md R218). -/
inductive IllegalWord where
  /-- Bits 7:3 are not zero: the words `0x08` to `0xFF`. -/
  | highBitsSet
  /-- Bits 7:3 are zero and the opcode is 0: the word `0x00`. -/
  | opcodeZero
  deriving DecidableEq, Repr

/-- What a command word decodes to. -/
inductive Decoded where
  | command (i : Instr)
  | illegal (why : IllegalWord)
  deriving DecidableEq, Repr

/-- R85, R86, R88: the command a word names. Total: every word names a command or is illegal. -/
def decodeWord (w : Byte) : Decoded :=
  match w.toNat with
  | 0 => .illegal .opcodeZero
  | 1 => .command .clear
  | 2 => .command .count
  | 3 => .command .build
  | 4 => .command .assign
  | 5 => .command .pack
  | 6 => .command .encode
  | 7 => .command .decode
  | _ => .illegal .highBitsSet

/-- The command at the head of a sequence of bytes, with the bytes after it; a command is one byte long (R85). -/
def decodeBytes : List Byte → Option (Decoded × List Byte)
  | [] => none
  | w :: rest => some (decodeWord w, rest)

/-- R86: the word of a command. -/
def encodeWord : Instr → Byte
  | .clear => 0x01
  | .count => 0x02
  | .build => 0x03
  | .assign => 0x04
  | .pack => 0x05
  | .encode => 0x06
  | .decode => 0x07

/-- The bytes of a command. -/
def encodeBytes (i : Instr) : List Byte := [encodeWord i]

/-- The command the decoder reads from a word of `nbits` bits given as a number, bit 0 the least significant bit. A command is
8 bits long and nothing stands above them (R85); a number of another width, or one that does not fit, is no command word. -/
def decodeTableWord (nbits w : Nat) : Option Instr :=
  if nbits = 8 ∧ w < 256 then
    match decodeWord (BitVec.ofNat 8 w) with
    | .command i => some i
    | .illegal _ => none
  else none

end Sys2Proof
end

