-- ==== Sys2Proof/Machine/State.lean ====
section
/-! DEFINITION. The state of the block (10_state.md R20 to R49), the reasons a step can stop, and the state after reset. -/

namespace Sys2Proof.Machine

/-- A memory: the entries that hold a value, as (index, entry) pairs with strictly rising indices (`Memory.wf`, Machine/Ops.lean).
An index that is not listed is unspecified and reads as nothing (10_state.md R44). `Memory Byte` is a list of `Host.Cell`. -/
abbrev Memory (α : Type) := List (Nat × α)

/-- An entry of `FT`: a symbol and its occurrence count (10_state.md R33). -/
structure FtEntry where
  sym : Sym
  cnt : Nat
  deriving DecidableEq, Repr

/-- An entry of `NODE`: a leaf or an internal node (10_state.md R34). -/
inductive Node where
  | leaf (sym : Sym) (freq : Nat)
  | internal (freq left right : Nat)
  deriving DecidableEq, Repr

/-- An entry of `CT`: a symbol, the length of its code and the code's bits as a number (10_state.md R35, 30_encoding.md R91). The
three fields are kept, and not the code as a bit string, because a host may load `val ≥ 2 ^ len`. -/
structure CtEntry where
  sym : Sym
  len : Nat
  val : Nat
  deriving DecidableEq, Repr

/-- The values of `STATUS.ERR` that have a name (60_exceptions.md R210). Codes 8 to 15 are reserved and never written. -/
inductive ErrCode where
  /-- Code 0: the last command ended OK. -/
  | ok
  /-- Code 1: reserved for the host's own use; the block never raises it (60_exceptions.md R212). -/
  | inputUnavailable
  /-- Code 2. -/
  | emptyInput
  /-- Code 3. -/
  | decodeCorruption
  /-- Code 4. -/
  | tableMismatch
  /-- Code 5. -/
  | uncoveredSymbol
  /-- Code 6. -/
  | sequenceError
  /-- Code 7. -/
  | illegalCommand
  deriving DecidableEq, Repr

/-- The five valid bits of `STATUS` (10_state.md R22, R41). -/
structure Valid where
  ft : Bool
  tree : Bool
  ct : Bool
  out : Bool
  dec : Bool
  deriving DecidableEq, Repr

/-- One event the host causes (30_encoding.md R101, 20_memory.md R69, 70_reset_and_hazards.md R235). Values are whole registers
and whole entries as numbers, in the formats of 30_encoding.md R89 to R91. -/
inductive HostAccess where
  /-- A write of `value` to register `reg`; register 0 is `CMD`. -/
  | writeReg (reg value : Nat)
  /-- A write of the entry `value` to entry `index` of memory `mem`. -/
  | writeMem (mem index value : Nat)
  /-- A read of register `reg`, made when no command runs. -/
  | readReg (reg : Nat)
  /-- A read of entry `index` of memory `mem`. -/
  | readMem (mem index : Nat)
  /-- A read of `STATUS` that does not wait for the end of a running command (20_memory.md R71). -/
  | pollStatus
  /-- A hardware reset (70_reset_and_hazards.md R235). -/
  | hardReset
  deriving DecidableEq, Repr

/-- The machine's faults: a step that stops because the model holds no value to go on with. Both are safe (the model stops where
the hardware would go on with some value). -/
inductive Fault where
  /-- A command or a host read reads a memory entry that holds no value (10_state.md R44, 93_implementation_defined.md U1: "a model
  holds no value there and treats a read of it as a fault"). Raised by COUNT, PACK, ENCODE (`IMEM`), DECODE (`OMEM`) and host
  reads. Safe. -/
  | unspecifiedRead
  /-- ASSIGN met a tree that is not one: a child index that leads nowhere or round in a circle. Only BUILD writes `TREE`, so no run from
  reset raises it (42_code_assigner.md R151; the obligation StepKeepsTree). Safe. -/
  | brokenTree
  deriving DecidableEq, Repr

/-- The machine's refusals: situations the spec gives no meaning ("not admitted", 00_scope.md R11). All are safe. -/
inductive Refusal where
  /-- No meaning has been written for the command: raised by exec's own arms only. Safe. -/
  | notModelled (mnemonic : String)
  /-- BUILD on a frequency table that breaks `WF_FT` (10_state.md R33, U3). Safe. -/
  | illFormedFT
  /-- PACK or DECODE on a code table that breaks `WF_CT` (10_state.md R35, U4). Safe. -/
  | illFormedCT
  /-- A host access to a register number above 10 (20_memory.md R68, U5). Safe. -/
  | noSuchRegister
  /-- A host access to a memory other than 0 to 5 (20_memory.md R60). Safe. -/
  | noSuchMemory
  /-- A host access at or beyond the number of entries of the memory (20_memory.md R68, U5). Safe. -/
  | indexOutOfRange
  /-- A host write of a length above its bound to `FTN`, `CTN` or `OLEN` (20_memory.md R68, U5). Safe. -/
  | lengthAboveBound
  /-- A host write of a value wider than the register or entry it is written to, which no access can carry (20_memory.md R66). Safe. -/
  | valueTooWide
  deriving DecidableEq, Repr

/-- The state of the block, and the model's own four fields `par`, `script`, `reads`, `fresh`. -/
structure State where
  /-- The instance's parameters (00_scope.md R7); no step writes them (notes/assumptions/1.md). -/
  par : Params
  /-- The word of the running command, taken at the `CMD` write (20_memory.md R73); `STATUS.BUSY` is 1 exactly while it is there. -/
  cmd : Option Byte
  /-- The valid bits of `STATUS`. -/
  valid : Valid
  /-- `STATUS.ERR` (10_state.md R43). -/
  err : ErrCode
  ilen : Nat
  ftn : Nat
  noden : Nat
  root : Nat
  ctn : Nat
  bitlen : Nat
  pad : Nat
  olen : Nat
  dlen : Nat
  imem : Memory Sym
  ft : Memory FtEntry
  node : Memory Node
  ct : Memory CtEntry
  omem : List Host.Cell
  dmem : Memory Sym
  /-- What the host does next, in order (notes/assumptions/2.md). -/
  script : List HostAccess
  /-- The values host reads have returned, oldest first (notes/assumptions/9.md). -/
  reads : List Nat
  /-- How many free values have been drawn (notes/assumptions/13.md). -/
  fresh : Nat
  deriving DecidableEq, Repr

/-- No structure is valid. -/
def Valid.none : Valid := { ft := false, tree := false, ct := false, out := false, dec := false }

/-- 10_state.md R47, 70_reset_and_hazards.md R236: the state of an instance with parameters `p` after a hardware reset: idle, no
structure valid, no error, every register 0, every memory entry unspecified. -/
def State.resetOf (p : Params) : State :=
  { par := p, cmd := none, valid := Valid.none, err := .ok,
    ilen := 0, ftn := 0, noden := 0, root := 0, ctn := 0, bitlen := 0, pad := 0, olen := 0, dlen := 0,
    imem := [], ft := [], node := [], ct := [], omem := [], dmem := [],
    script := [], reads := [], fresh := 0 }

/-- The reset state of the instance with the default parameters. -/
def State.reset : State := State.resetOf Params.standard

end Sys2Proof.Machine
end

