-- ==== Sys2Proof/Machine/Limits.lean ====
section
/-! DEFINITION. The constants derived from the two parameters (00_scope.md R8). -/

namespace Sys2Proof

/-- `NSYM_MAX`: the largest number of distinct symbols. -/
def Params.nsymMax (p : Params) : Nat := 2 ^ p.symW

/-- `N_MAX`: the largest input length, the depth of `IMEM`. -/
def Params.nMax (p : Params) : Nat := 2 ^ p.lenW - 1

/-- `NODE_MAX`: the depth of `NODE`. -/
def Params.nodeMax (p : Params) : Nat := 2 * p.nsymMax - 1

/-- `IDX_W`: the width of a node index and of `FTN`, `NODEN`, `ROOT`, `CTN`. -/
def Params.idxW (p : Params) : Nat := p.symW + 1

/-- `FREQ_W`: the width of a node's frequency. -/
def Params.freqW (p : Params) : Nat := p.lenW + p.symW

/-- `CLEN_MAX`: the longest code, the width of a `CT` entry's `val`. -/
def Params.clenMax (p : Params) : Nat := p.nsymMax - 1

/-- `CLEN_W`: the width of a `CT` entry's `len`. -/
def Params.clenW (p : Params) : Nat := p.symW

/-- `BITLEN_W`: the width of `BITLEN` and `OLEN`. -/
def Params.bitlenW (p : Params) : Nat := p.lenW + p.symW

/-- `O_MAX`: the depth of `OMEM`. -/
def Params.oMax (p : Params) : Nat := 2 + p.nMax * p.clenMax / 8

/-- `D_MAX`: the depth of `DMEM`. -/
def Params.dMax (p : Params) : Nat := 8 * (p.oMax - 1)

end Sys2Proof
end

