-- ==== Sys2Proof/Machine/Bits.lean ====
section
/-! DEFINITION. Bit strings as numbers and bytes (00_scope.md R14, R15). -/

namespace Sys2Proof.Machine

/-- R15 `val(b)`: the string read as a binary number, first bit most significant; `val(ε) = 0`. -/
def bitsVal (b : Bits) : Nat := b.foldl (fun a x => 2 * a + x.toNat) 0

/-- R15 `str(len, v)`: the bit string of length `len` whose number is `v`, first bit most significant. Where `v ≥ 2 ^ len`, which R15
leaves undefined, the high bits are dropped; no command gets there, since `WF_CT` requires `val < 2 ^ len`. -/
def bitsStr : Nat → Nat → Bits
  | 0, _ => []
  | n + 1, v => v.testBit n :: bitsStr n v

/-- R14 `byte_of(b)`: the first bit of the string is bit 7 of the byte. -/
def byteOf (b : Bits) : Byte := BitVec.ofNat 8 (bitsVal b)

/-- R14 `bits_of(v)`: the bits `v[7], …, v[0]`. -/
def bitsOf (v : Byte) : Bits := bitsStr 8 v.toNat

/-- 10_state.md R35 `code(i) = str(len, val)`. -/
def CtEntry.code (e : CtEntry) : Bits := bitsStr e.len e.val

/-- 30_encoding.md R92: how a code is stored: its length and its number. -/
def codeEntry (sym : Sym) (code : Bits) : CtEntry := { sym := sym, len := code.length, val := bitsVal code }

end Sys2Proof.Machine
end

