-- ==== Sys2Proof/Machine/Entries.lean ====
section
/-! DEFINITION. The formats of memory entries as numbers (30_encoding.md R89 to R91), fields from the most significant end. -/

namespace Sys2Proof.Machine

/-- R89: the number of an `FT` entry. -/
def encodeFt (p : Params) (e : FtEntry) : Nat := e.sym * 2 ^ p.lenW + e.cnt

/-- R89: the `FT` entry of a number. -/
def decodeFt (p : Params) (v : Nat) : FtEntry := { sym := v / 2 ^ p.lenW, cnt := v % 2 ^ p.lenW }

/-- R89: the width of an `FT` entry. -/
def ftWidth (p : Params) : Nat := p.symW + p.lenW

/-- R90: a `NODE` entry from its five fields. -/
def nodeNumber (p : Params) (tag sym freq left right : Nat) : Nat :=
  (((tag * 2 ^ p.symW + sym) * 2 ^ p.freqW + freq) * 2 ^ p.idxW + left) * 2 ^ p.idxW + right

/-- R90: the number a read of a `NODE` entry returns. The fields that the entry's form does not have are unspecified (10_state.md R44):
`x` and `y` stand in for them, cut to the fields' widths. -/
def encodeNode (p : Params) (x y : Nat) : Node → Nat
  | .leaf sym freq => nodeNumber p 0 sym freq (x % 2 ^ p.idxW) (y % 2 ^ p.idxW)
  | .internal freq left right => nodeNumber p 1 (x % 2 ^ p.symW) freq left right

/-- R90: the `NODE` entry of a number, by its tag, the top bit. -/
def decodeNode (p : Params) (v : Nat) : Node :=
  let right := v % 2 ^ p.idxW
  let left := v / 2 ^ p.idxW % 2 ^ p.idxW
  let freq := v / 2 ^ p.idxW / 2 ^ p.idxW % 2 ^ p.freqW
  let sym := v / 2 ^ p.idxW / 2 ^ p.idxW / 2 ^ p.freqW % 2 ^ p.symW
  let tag := v / 2 ^ p.idxW / 2 ^ p.idxW / 2 ^ p.freqW / 2 ^ p.symW
  if tag = 0 then .leaf sym freq else .internal freq left right

/-- R91: the number of a `CT` entry. -/
def encodeCt (p : Params) (e : CtEntry) : Nat := (e.sym * 2 ^ p.clenW + e.len) * 2 ^ p.clenMax + e.val

/-- R91: the `CT` entry of a number. -/
def decodeCt (p : Params) (v : Nat) : CtEntry :=
  { sym := v / 2 ^ p.clenMax / 2 ^ p.clenW, len := v / 2 ^ p.clenMax % 2 ^ p.clenW, val := v % 2 ^ p.clenMax }

/-- R91: the width of a `CT` entry. -/
def ctWidth (p : Params) : Nat := p.symW + p.clenW + p.clenMax

end Sys2Proof.Machine
end

