-- ==== Sys2Proof/Machine/Flags.lean ====
section
/-! DEFINITION. The valid bits: what each event of 10_state.md R42 and each error of 60_exceptions.md R220 does to them; the
numeric error codes (R210) and the `STATUS` word (10_state.md R22). -/

namespace Sys2Proof.Machine

/-- R42, `COUNT` ends OK, and a host write of `FTN`: `FT` is valid, everything after it in the chain is not. -/
def Valid.afterFT (v : Valid) : Valid := { v with ft := true, tree := false, ct := false, out := false }

/-- R42, `BUILD` ends OK. -/
def Valid.afterTREE (v : Valid) : Valid := { v with tree := true, ct := false, out := false }

/-- R42, `ASSIGN` ends OK, and a host write of `CTN`. -/
def Valid.afterCT (v : Valid) : Valid := { v with ct := true, out := false }

/-- R42, `PACK` ends OK. -/
def Valid.afterOUT (v : Valid) : Valid := { v with out := true }

/-- R42, `DECODE` ends OK. -/
def Valid.afterDEC (v : Valid) : Valid := { v with dec := true }

/-- R42, a host write of `FT[i]`. -/
def Valid.loseFT (v : Valid) : Valid := { v with ft := false, tree := false, ct := false, out := false }

/-- R220, `BUILD` raises `EmptyInput`. -/
def Valid.loseTREE (v : Valid) : Valid := { v with tree := false, ct := false, out := false }

/-- R42, a host write of `CT[i]`. -/
def Valid.loseCT (v : Valid) : Valid := { v with ct := false, out := false }

/-- R42, a host write of `OMEM[i]` or `OLEN`; R220, `PACK` raises `UncoveredSymbol`. -/
def Valid.loseOUT (v : Valid) : Valid := { v with out := false }

/-- R220, `DECODE` raises a data error. -/
def Valid.loseDEC (v : Valid) : Valid := { v with dec := false }

/-- 60_exceptions.md R210: the number of an error. -/
def ErrCode.code : ErrCode → Nat
  | .ok => 0
  | .inputUnavailable => 1
  | .emptyInput => 2
  | .decodeCorruption => 3
  | .tableMismatch => 4
  | .uncoveredSymbol => 5
  | .sequenceError => 6
  | .illegalCommand => 7

/-- `STATUS.BUSY`: a command runs (10_state.md R22). -/
def State.busy (s : State) : Bool := s.cmd.isSome

/-- 10_state.md R22: the 12 bits of `STATUS`: `BUSY` in bit 0, the valid bits in bits 1 to 5, bits 7:6 zero, `ERR` in bits 11:8. -/
def statusWord (s : State) : BitVec 12 :=
  BitVec.ofNat 12 (s.busy.toNat + 2 * s.valid.ft.toNat + 4 * s.valid.tree.toNat + 8 * s.valid.ct.toNat
    + 16 * s.valid.out.toNat + 32 * s.valid.dec.toNat + 256 * s.err.code)

/-- 10_state.md R22: what a read of `STATUS` returns while a command runs: bit 0 is 1 and every other bit is unspecified; `x` stands
in for those. -/
def busyStatusWord (x : Nat) : BitVec 12 := BitVec.ofNat 12 (2 * x + 1)

end Sys2Proof.Machine
end

