-- ==== Sys2Proof/Machine/Ops.lean ====
section
/-! DEFINITION. The named operations over memories and over the state: reading and writing entries, producing each structure,
how a command ends, and how a command raises an error (60_exceptions.md R220). -/

namespace Sys2Proof.Machine

/-! ### Memories -/

/-- 00_scope.md R16 `M[i]`: the entry at index `i`; nothing where the entry is unspecified (10_state.md R44). -/
def Memory.read {α : Type} : Memory α → Nat → Option α
  | [], _ => none
  | (j, v) :: rest, i => if i = j then some v else Memory.read rest i

/-- 00_scope.md R16 `M[i] <- v`. The entry is put at its place, so that the indices stay strictly rising. -/
def Memory.write {α : Type} : Memory α → Nat → α → Memory α
  | [], i, v => [(i, v)]
  | (j, w) :: rest, i, v =>
    if i < j then (i, v) :: (j, w) :: rest
    else if i = j then (i, v) :: rest
    else (j, w) :: Memory.write rest i v

/-- The canonical form: strictly rising indices. No entry can equal what an unlisted index reads as, since that is no value. -/
def Memory.wf {α : Type} : Memory α → Bool
  | [] => true
  | [_] => true
  | (i, _) :: (j, w) :: rest => decide (i < j) && Memory.wf ((j, w) :: rest)

/-- The memory that holds the list's entries at `start`, `start + 1`, … and nothing else. -/
def Memory.entriesFrom {α : Type} : Nat → List α → Memory α
  | _, [] => []
  | start, v :: vs => (start, v) :: Memory.entriesFrom (start + 1) vs

/-- Writes of the list's entries at `start`, `start + 1`, …. -/
def Memory.writeFrom {α : Type} (m : Memory α) : Nat → List α → Memory α
  | _, [] => m
  | start, v :: vs => Memory.writeFrom (Memory.write m start v) (start + 1) vs

/-- The writes `M[i] <- v` of a list of pairs, in order. -/
def Memory.writeAll {α : Type} (m : Memory α) : List (Nat × α) → Memory α
  | [] => m
  | (i, v) :: rest => Memory.writeAll (Memory.write m i v) rest

/-- The entries `start .. start + n − 1`, or nothing if one of them is unspecified. -/
def Memory.readRange {α : Type} (m : Memory α) : (start n : Nat) → Option (List α)
  | _, 0 => some []
  | start, n + 1 =>
    match Memory.read m start with
    | none => none
    | some v =>
      match Memory.readRange m (start + 1) n with
      | none => none
      | some vs => some (v :: vs)

/-! ### The structures a command produces

Each of these writes one structure whole, with its registers and valid bits, and nothing else. Entries of `FT`, `NODE`, `CT` and
`DMEM` beyond the structure's length are unspecified afterwards (10_state.md R44). -/

/-- `COUNT` writes the structure `FT` (40_frequency_counter.md R116). -/
def State.putFT (s : State) (table : List FtEntry) : State :=
  { s with ft := Memory.entriesFrom 0 table, ftn := table.length, valid := s.valid.afterFT }

/-- `BUILD` writes the structure `TREE` (41_tree_builder.md R137). -/
def State.putTREE (s : State) (nodes : List Node) (root : Nat) : State :=
  { s with node := Memory.entriesFrom 0 nodes, noden := nodes.length, root := root, valid := s.valid.afterTREE }

/-- `ASSIGN` writes the structure `CT` (42_code_assigner.md R154): `n` entries, each at its leaf's index. -/
def State.putCT (s : State) (entries : List (Nat × CtEntry)) (n : Nat) : State :=
  { s with ct := Memory.writeAll [] entries, ctn := n, valid := s.valid.afterCT }

/-- `PACK` writes the structure `OUT` (43_bit_packer.md R172, R173): the header and the packed bytes, `OLEN`, `BITLEN`, `PAD`. Entries
of `OMEM` beyond the payload are not among those R44 makes unspecified, and keep their values (notes/assumptions/11.md). -/
def State.putOUT (s : State) (packed : List Byte) (bitlen pad : Nat) : State :=
  { s with omem := Memory.writeFrom s.omem 0 (BitVec.ofNat 8 pad :: packed), olen := 1 + packed.length, bitlen := bitlen,
           pad := pad, valid := s.valid.afterOUT }

/-- `DECODE` writes the structure `DEC` (45_decoder.md R202). -/
def State.putDEC (s : State) (syms : List Sym) : State :=
  { s with dmem := Memory.entriesFrom 0 syms, dlen := syms.length, valid := s.valid.afterDEC }

/-- 44_encoder_facade.md R186 `derived_clear()`: the valid bits and every derived register to 0; `ILEN` and the memories stay. -/
def State.derivedClear (s : State) : State :=
  { s with valid := Valid.none, ftn := 0, noden := 0, root := 0, ctn := 0, bitlen := 0, pad := 0, olen := 0, dlen := 0 }

/-- 10_state.md R43: a command writes `STATUS.ERR` at its end. -/
def State.setErr (s : State) (e : ErrCode) : State := { s with err := e }

/-- 10_state.md R22: `STATUS.BUSY` returns to 0; `CMD` holds nothing between commands (R21). -/
def State.goIdle (s : State) : State := { s with cmd := none }

/-! ### Raising an error

An error is what an instruction-set manual calls a synchronous exception (60_exceptions.md), and `raiseError` is the one operation
that takes it. Nothing is saved, no mode changes and control goes nowhere (R221). There is no return from an error and nothing to
restore (R222): the next command simply overwrites `ERR`. -/

/-- The rows of 60_exceptions.md R220. `EmptyInput` has one row for `BUILD` and one for `ENCODE`; the second is the first applied to what
`derived_clear` and `COUNT`'s body left (44_encoder_facade.md R187). -/
inductive ErrorRow where
  /-- The word written to `CMD` is no command (R218). -/
  | illegalCommand
  /-- The structure `BUILD`, `ASSIGN` or `PACK` reads is not valid (R217). -/
  | sequenceError
  /-- `DECODE` with `V_CT = 0` (R215). -/
  | tableMissing
  /-- `BUILD` with `FTN = 0` (R213). -/
  | emptyInput
  /-- `PACK` meets a symbol the table does not have (R216). -/
  | uncoveredSymbol
  /-- `DECODE` meets a payload that does not resolve (R214). -/
  | decodeCorruption
  /-- `DECODE` meets bits no code can match (R215). -/
  | tableMismatch
  deriving DecidableEq, Repr

/-- R210: the code the row's error writes to `STATUS.ERR`. -/
def ErrorRow.err : ErrorRow → ErrCode
  | .illegalCommand => .illegalCommand
  | .sequenceError => .sequenceError
  | .tableMissing => .tableMismatch
  | .emptyInput => .emptyInput
  | .uncoveredSymbol => .uncoveredSymbol
  | .decodeCorruption => .decodeCorruption
  | .tableMismatch => .tableMismatch

/-- R220, `UncoveredSymbol`: the structure `OUT` is lost: its lengths are 0 and its entries unspecified. -/
def State.loseOUT (s : State) : State :=
  { s with valid := s.valid.loseOUT, olen := 0, bitlen := 0, pad := 0, omem := [] }

/-- R220, a data error of `DECODE`: the structure `DEC` is lost. -/
def State.loseDEC (s : State) : State := { s with valid := s.valid.loseDEC, dlen := 0, dmem := [] }

/-- R220, `EmptyInput`: `V_TREE, V_CT, V_OUT <- 0`; `NODE`, `NODEN` and `ROOT` are as they were. -/
def State.loseTREE (s : State) : State := { s with valid := s.valid.loseTREE }

/-- 60_exceptions.md R220, error entry: what the row does beside `ERR` and `BUSY`. -/
def State.errorEffect (s : State) : ErrorRow → State
  | .illegalCommand => s
  | .sequenceError => s
  | .tableMissing => s
  | .emptyInput => s.loseTREE
  | .uncoveredSymbol => s.loseOUT
  | .decodeCorruption => s.loseDEC
  | .tableMismatch => s.loseDEC

/-- R220: taking an error: the row's effect and `STATUS.ERR <-` the code. `STATUS.BUSY <- 0` comes with the end of the command
(`Body.outcome`). -/
def raiseError (s : State) (r : ErrorRow) : State := (s.errorEffect r).setErr r.err

/-! ### How a command's body ends -/

/-- 00_scope.md R11: the outcomes of a command's body. -/
inductive Body where
  /-- It ended OK. -/
  | done (s : State)
  /-- It raised an error, taken by `raiseError`. -/
  | raised (s : State)
  /-- It read a location that holds no value. -/
  | fault (r : Fault)
  /-- It is not admitted. -/
  | refused (r : Refusal)
  deriving DecidableEq, Repr

/-- R11, R43: the body ends OK and writes `STATUS.ERR <- 0`. -/
def endOk (s : State) : Body := .done (s.setErr .ok)

/-- R11: the body stops with an error. -/
def endError (s : State) (r : ErrorRow) : Body := .raised (raiseError s r)

/-- 44_encoder_facade.md R185, R187: the next body runs on the state the one before left; an error ends the sequence. -/
def Body.andThen (b : Body) (next : State → Body) : Body :=
  match b with
  | .done s => next s
  | .raised s => .raised s
  | .fault r => .fault r
  | .refused r => .refused r

/-- The end of a command: `STATUS.BUSY <- 0`, after an error as after OK (R220, 70_reset_and_hazards.md R243). -/
def Body.outcome : Body → Host.Outcome State Fault Refusal
  | .done s => .next s.goIdle
  | .raised s => .next s.goIdle
  | .fault r => .fault r
  | .refused r => .refused r

end Sys2Proof.Machine
end

