-- ==== Sys2Proof/Machine/Operands.lean ====
section
/-! DEFINITION. The implicit operands of the commands (30_encoding.md R87): the input, the two tables with their well-formedness
(10_state.md R33, R35), the searches in a code table, and the payload. -/

namespace Sys2Proof.Machine

/-- The input `IMEM[0 .. ILEN−1]` (10_state.md R32), or nothing if an entry is unspecified. -/
def State.input (s : State) : Option (List Sym) := s.imem.readRange 0 s.ilen

/-- The frequency table `FT[0 .. FTN−1]` (R33). -/
def State.ftTable (s : State) : Option (List FtEntry) := s.ft.readRange 0 s.ftn

/-- The nodes `NODE[0 .. NODEN−1]` (R34). -/
def State.nodes (s : State) : Option (List Node) := s.node.readRange 0 s.noden

/-- The code table `CT[0 .. CTN−1]` (R35). -/
def State.ctTable (s : State) : Option (List CtEntry) := s.ct.readRange 0 s.ctn

/-- The payload `OMEM[0 .. OLEN−1]` (R36). -/
def State.payload (s : State) : Option (List Byte) := Memory.readRange s.omem 0 s.olen

/-- The decoded symbols `DMEM[0 .. DLEN−1]` (R37). -/
def State.decoded (s : State) : Option (List Sym) := s.dmem.readRange 0 s.dlen

/-- R33 `WF_FT`: the symbols are pairwise different and every count is at least 1. -/
def wfFT : List FtEntry → Bool
  | [] => true
  | e :: rest => decide (1 ≤ e.cnt) && rest.all (fun x => x.sym != e.sym) && wfFT rest

/-- R35 (d) for one pair: neither code is a prefix of the other. -/
def prefixFreePair (a b : CtEntry) : Bool := !(a.code.isPrefixOf b.code) && !(b.code.isPrefixOf a.code)

/-- R35 `WF_CT`: (a) the symbols are pairwise different, (b) every length is at least 1, (c) `val < 2 ^ len`, (d) no code is a prefix of
another. -/
def wfCT : List CtEntry → Bool
  | [] => true
  | e :: rest =>
    decide (1 ≤ e.len) && decide (e.val < 2 ^ e.len) && rest.all (fun x => x.sym != e.sym && prefixFreePair e x) && wfCT rest

/-- R35, the forward mapping: the entry of symbol `s`; unique under `WF_CT`. -/
def lookup (table : List CtEntry) (s : Sym) : Option CtEntry := table.find? (fun e => e.sym == s)

/-- R35, 42_code_assigner.md R155, the reverse mapping: the entry whose code is `b`; unique under `WF_CT`. -/
def rlookup (table : List CtEntry) (b : Bits) : Option CtEntry := table.find? (fun e => e.code == b)

/-- 45_decoder.md R201: some code of the table has `b` as a proper prefix. -/
def beginsCode (table : List CtEntry) (b : Bits) : Bool := table.any (fun e => b.isPrefixOf e.code && e.code != b)

end Sys2Proof.Machine
end

