-- ==== Sys2Proof/Machine/FrequencyCounter.lean ====
section
/-! DEFINITION. The FrequencyCounter: `COUNT` (40_frequency_counter.md). -/

namespace Sys2Proof.Machine

/-- R116, the loop body: the symbol's count goes up by one, or the symbol is appended with count 1. -/
def countSymbol : List FtEntry → Sym → List FtEntry
  | [], x => [{ sym := x, cnt := 1 }]
  | e :: rest, x => if e.sym = x then { e with cnt := e.cnt + 1 } :: rest else e :: countSymbol rest x

/-- R116, the loop over the input. -/
def countTable (input : List Sym) : List FtEntry := input.foldl countSymbol []

/-- R116, the body of `COUNT`. -/
def countBody (s : State) : Body :=
  match s.input with
  | none => .fault .unspecifiedRead
  | some input => endOk (s.putFT (countTable input))

/-- R116 `COUNT`. -/
def execCount (s : State) : Host.Outcome State Fault Refusal := (countBody s).outcome

end Sys2Proof.Machine
end

