-- ==== Sys2Proof/Machine/TreeBuilder.lean ====
section
/-! DEFINITION. The TreeBuilder: the priority queue, the merge, `BUILD` (41_tree_builder.md). -/

namespace Sys2Proof.Machine

/-- The frequency of a node (10_state.md R34). -/
def Node.freq : Node → Nat
  | .leaf _ freq => freq
  | .internal freq _ _ => freq

/-- R129: the key of a node in the queue: its frequency, then its index. -/
structure Key where
  freq : Nat
  idx : Nat
  deriving DecidableEq, Repr

/-- R129: keys are compared by frequency, and by index where the frequencies are equal. -/
def Key.less (a b : Key) : Bool := decide (a.freq < b.freq) || (a.freq == b.freq && decide (a.idx < b.idx))

/-- R130 `PQ.insert`. The queue is the list of its keys in rising order; how the set is held is not architectural (R140,
10_state.md R38). -/
def pqInsert (k : Key) : List Key → List Key
  | [] => [k]
  | x :: rest => if k.less x then k :: x :: rest else x :: pqInsert k rest

/-- R128: the leaf of a table entry. -/
def leafOf (e : FtEntry) : Node := .leaf e.sym e.cnt

/-- R128: the leaves enter the queue in index order. -/
def insertLeaves (pq : List Key) : Nat → List FtEntry → List Key
  | _, [] => pq
  | i, e :: rest => insertLeaves (pqInsert { freq := e.cnt, idx := i } pq) (i + 1) rest

/-- R132, R133: the internal node made from two popped keys, the first pop on the left. -/
def parentOf (a b : Key) : Node := .internal (a.freq + b.freq) a.idx b.idx

/-- R134: the merge step is repeated while the queue holds two nodes or more; `fuel` bounds the number of merges (one less than the
number of leaves). R131 `PQ.popmin` takes the head. -/
def mergeLoop : (fuel : Nat) → List Node → List Key → List Node × List Key
  | fuel + 1, nodes, a :: b :: rest =>
    mergeLoop fuel (nodes ++ [parentOf a b]) (pqInsert { freq := a.freq + b.freq, idx := nodes.length } rest)
  | _, nodes, pq => (nodes, pq)

/-- R137: the nodes and the root's index for a table with at least one entry. -/
def buildTree (table : List FtEntry) : List Node × Nat :=
  match mergeLoop table.length (table.map leafOf) (insertLeaves [] 0 table) with
  | (nodes, k :: _) => (nodes, k.idx)
  | (nodes, []) => (nodes, 0)

/-- R137, the body of `BUILD`, with the check of `WF_FT` that R126 asks of a committed table (not admitted otherwise, U3). -/
def buildBody (s : State) : Body :=
  if s.valid.ft = false then endError s .sequenceError
  else if s.ftn = 0 then endError s .emptyInput
  else
    match s.ftTable with
    | none => .refused .illFormedFT
    | some table =>
      if wfFT table then endOk (s.putTREE (buildTree table).1 (buildTree table).2)
      else .refused .illFormedFT

/-- R137 `BUILD`. -/
def execBuild (s : State) : Host.Outcome State Fault Refusal := (buildBody s).outcome

end Sys2Proof.Machine
end

