-- ==== Sys2Proof/Machine/CodeAssigner.lean ====
section
/-! DEFINITION. The CodeAssigner: the tree walk and `ASSIGN` (42_code_assigner.md). -/

namespace Sys2Proof.Machine

/-- R152 `walk(i, path)`: the entries it writes, in order; nothing where the tree is not one. Every child index is below its parent's
(41_tree_builder.md R138 (c)), so `fuel = i + 1` always suffices. -/
def walk (nodes : Memory Node) : (fuel i : Nat) → Bits → Option (List (Nat × CtEntry))
  | 0, _, _ => none
  | fuel + 1, i, path =>
    match nodes.read i with
    | none => none
    | some (.leaf sym _) => some [(i, codeEntry sym path)]
    | some (.internal _ l r) =>
      match walk nodes fuel l (path ++ [false]) with
      | none => none
      | some a =>
        match walk nodes fuel r (path ++ [true]) with
        | none => none
        | some b => some (a ++ b)

/-- R156: the walk without recursion, by an explicit stack of (node, path) pairs; `fuel` bounds the number of visits. -/
def walkStack (nodes : Memory Node) : (fuel : Nat) → List (Nat × Bits) → Option (List (Nat × CtEntry))
  | _, [] => some []
  | 0, _ :: _ => none
  | fuel + 1, (i, path) :: stack =>
    match nodes.read i with
    | none => none
    | some (.leaf sym _) =>
      match walkStack nodes fuel stack with
      | none => none
      | some out => some ((i, codeEntry sym path) :: out)
    | some (.internal _ l r) => walkStack nodes fuel ((l, path ++ [false]) :: (r, path ++ [true]) :: stack)

/-- R153, R154: the entries `ASSIGN` writes: the one-bit fallback code `"0"` where the root is a leaf, else the walk from the root. -/
def assignEntries (nodes : Memory Node) (root : Nat) : Option (List (Nat × CtEntry)) :=
  match nodes.read root with
  | some (.leaf sym _) => some [(root, codeEntry sym [false])]
  | _ => walk nodes (root + 1) root []

/-- R154, the body of `ASSIGN`. R158: the number of leaves is `(NODEN + 1) / 2`. -/
def assignBody (s : State) : Body :=
  if s.valid.tree = false then endError s .sequenceError
  else
    match assignEntries s.node s.root with
    | none => .fault .brokenTree
    | some entries => endOk (s.putCT entries ((s.noden + 1) / 2))

/-- R154 `ASSIGN`. -/
def execAssign (s : State) : Host.Outcome State Fault Refusal := (assignBody s).outcome

end Sys2Proof.Machine
end

