-- ==== Sys2Proof/Machine/BitPacker.lean ====
section
/-! DEFINITION. The BitPacker: concatenation, padding, packing, `PACK` (43_bit_packer.md), and the byte-serial packer of R175. -/

namespace Sys2Proof.Machine

/-- How the concatenation of `PACK` ends. -/
inductive Concat where
  /-- The whole input is covered; the string of its codes. -/
  | bits (b : Bits)
  /-- An input symbol has no entry (R167). -/
  | uncovered
  /-- An input entry is unspecified (10_state.md R44). -/
  | unread
  deriving DecidableEq, Repr

/-- R167, R168, R173: the loop over `IMEM[j .. j + n − 1]`, which stops at the first symbol without an entry; `acc` is the string so
far. -/
def concatCodes (table : List CtEntry) (imem : Memory Sym) : (n j : Nat) → Bits → Concat
  | 0, _, acc => .bits acc
  | n + 1, j, acc =>
    match imem.read j with
    | none => .unread
    | some x =>
      match lookup table x with
      | none => .uncovered
      | some e => concatCodes table imem n (j + 1) (acc ++ e.code)

/-- R169: `p = 8 − (L mod 8)`, in `1 .. 8`. -/
def padding (l : Nat) : Nat := 8 - l % 8

/-- R170: the bits followed by the padding zeros. -/
def padded (bits : Bits) : Bits := bits ++ List.replicate (padding bits.length) false

/-- R171: the packed bytes: byte `k` holds the bits `8k .. 8k + 7`, for `k` below the number `m` of whole groups. -/
def packBytes (b : Bits) : List Byte := (List.range (b.length / 8)).map (fun k => byteOf ((b.drop (8 * k)).take 8))

/-- R173, the body of `PACK`, with the check of `WF_CT` that R166 asks of a committed table (not admitted otherwise, U4). -/
def packBody (s : State) : Body :=
  if s.valid.ct = false then endError s .sequenceError
  else
    match s.ctTable with
    | none => .refused .illFormedCT
    | some table =>
      if wfCT table then
        match concatCodes table s.imem s.ilen 0 [] with
        | .unread => .fault .unspecifiedRead
        | .uncovered => endError s .uncoveredSymbol
        | .bits bits => endOk (s.putOUT (packBytes (padded bits)) bits.length (padding bits.length))
      else .refused .illFormedCT

/-- R173 `PACK`. -/
def execPack (s : State) : Host.Outcome State Fault Refusal := (packBody s).outcome

/-! ### The byte-serial packer (R175) -/

/-- R175: the accumulator `ACC`, its fill count `NACC`, the byte pointer `WP`, the bit counter `LC`, and the bytes written from
`OMEM[1]` on. -/
structure SerialPacker where
  acc : Nat
  nacc : Nat
  wp : Nat
  lc : Nat
  written : List Byte
  deriving DecidableEq, Repr

/-- R175: the start. -/
def serialStart : SerialPacker := { acc := 0, nacc := 0, wp := 1, lc := 0, written := [] }

/-- R175 `emit(b)`: shift the bit in; a full accumulator is written and emptied. -/
def emitBit (q : SerialPacker) (b : Bool) : SerialPacker :=
  if q.nacc + 1 = 8 then
    { acc := 0, nacc := 0, wp := q.wp + 1, lc := q.lc + 1,
      written := q.written ++ [BitVec.ofNat 8 ((q.acc * 2 + b.toNat) % 256)] }
  else { q with acc := (q.acc * 2 + b.toNat) % 256, nacc := q.nacc + 1, lc := q.lc + 1 }

/-- R175: emit the bits of a string in order. -/
def emitBits (q : SerialPacker) (bits : Bits) : SerialPacker := bits.foldl emitBit q

/-- R175: the packer after the code bits and the `8 − NACC` padding bits. -/
def serialPack (bits : Bits) : SerialPacker :=
  emitBits (emitBits serialStart bits) (List.replicate (8 - (emitBits serialStart bits).nacc) false)

end Sys2Proof.Machine
end

