-- ==== Sys2Proof/Machine/Facade.lean ====
section
/-! DEFINITION. The Encoder facade: `ENCODE` and `CLEAR` (44_encoder_facade.md). -/

namespace Sys2Proof.Machine

/-- R185, the body of `ENCODE`: `derived_clear`, then the bodies of the four commands, ending at the first error (R187). -/
def encodeBody (s : State) : Body :=
  (((countBody s.derivedClear).andThen buildBody).andThen assignBody).andThen packBody

/-- R185 `ENCODE`. -/
def execEncode (s : State) : Host.Outcome State Fault Refusal := (encodeBody s).outcome

/-- R188, the body of `CLEAR`: `derived_clear`, `ILEN <- 0`, `ERR <- 0`. -/
def clearBody (s : State) : Body := endOk { s.derivedClear with ilen := 0 }

/-- R188 `CLEAR`. -/
def execClear (s : State) : Host.Outcome State Fault Refusal := (clearBody s).outcome

end Sys2Proof.Machine
end

