-- ==== Sys2Proof/Machine/Decoder.lean ====
section
/-! DEFINITION. The Decoder: `DECODE` (45_decoder.md). -/

namespace Sys2Proof.Machine

/-- How the matching loop of `DECODE` ends. -/
inductive Match where
  /-- The bits resolve to these symbols. -/
  | symbols (out : List Sym)
  /-- No code of the table can match (R201). -/
  | mismatch
  /-- The bits end inside a code (R201). -/
  | leftover
  deriving DecidableEq, Repr

/-- R200 to R202, the loop over the data bits: `acc` is the candidate, `out` the symbols so far. -/
def matchBits (table : List CtEntry) : Bits → (acc : Bits) → (out : List Sym) → Match
  | [], acc, out => if acc = [] then .symbols out else .leftover
  | b :: rest, acc, out =>
    match rlookup table (acc ++ [b]) with
    | some e => matchBits table rest [] (out ++ [e.sym])
    | none => if beginsCode table (acc ++ [b]) then matchBits table rest (acc ++ [b]) out else .mismatch

/-- R198: the bits of the packed bytes. -/
def unpackBits (packed : List Byte) : Bits := packed.flatMap bitsOf

/-- R199 to R202: strip `p` bits from the end and match the rest. -/
def decodeData (s : State) (table : List CtEntry) (p : Nat) (all : Bits) : Body :=
  if all.length < p then endError s .decodeCorruption
  else
    match matchBits table (all.take (all.length - p)) [] [] with
    | .symbols out => endOk (s.putDEC out)
    | .mismatch => endError s .tableMismatch
    | .leftover => endError s .decodeCorruption

/-- R197 to R202: the payload, header first; a header above 8 ends the command before the packed bytes are read. -/
def decodePayload (s : State) (table : List CtEntry) : Body :=
  if s.olen = 0 then endError s .decodeCorruption
  else
    match Memory.read s.omem 0 with
    | none => .fault .unspecifiedRead
    | some header =>
      if 8 < header.toNat then endError s .decodeCorruption
      else
        match Memory.readRange s.omem 1 (s.olen - 1) with
        | none => .fault .unspecifiedRead
        | some packed => decodeData s table header.toNat (unpackBits packed)

/-- R202, the body of `DECODE`, with the check of `WF_CT` that R196 asks of a committed table (not admitted otherwise, U4). -/
def decodeBody (s : State) : Body :=
  if s.valid.ct = false then endError s .tableMissing
  else
    match s.ctTable with
    | none => .refused .illFormedCT
    | some table => if wfCT table then decodePayload s table else .refused .illFormedCT

/-- R202 `DECODE`. -/
def execDecode (s : State) : Host.Outcome State Fault Refusal := (decodeBody s).outcome

end Sys2Proof.Machine
end

