-- ==== Sys2Proof/Machine/HostAccesses.lean ====
section
/-! DEFINITION. What the host can do: writes and reads of registers and memories (10_state.md section 2, R21 to R37, R42; 20_memory.md R60, R66 to
R68), polls of `STATUS` and the hardware reset (70_reset_and_hazards.md R235). -/

namespace Sys2Proof.Machine

/-- A host write or read that completes; `s'` is the state after it. -/
abbrev HostOutcome := Host.Outcome State Fault Refusal

/-- R21, R88: a write of a command word starts the command; an illegal word raises `IllegalCommand` and starts nothing
(60_exceptions.md R218). -/
def writeCMD (s : State) (v : Nat) : HostOutcome :=
  if 256 ≤ v then .refused .valueTooWide
  else
    match decodeWord (BitVec.ofNat 8 v) with
    | .command _ => .next { s with cmd := some (BitVec.ofNat 8 v) }
    | .illegal _ => .next (raiseError s .illegalCommand)

/-- R23: `ILEN` takes any `LEN_W`-bit value and no valid bit changes. -/
def writeILEN (s : State) (v : Nat) : HostOutcome :=
  if 2 ^ s.par.lenW ≤ v then .refused .valueTooWide else .next { s with ilen := v }

/-- R24: a write to `FTN` commits a frequency table. -/
def writeFTN (s : State) (v : Nat) : HostOutcome :=
  if s.par.nsymMax < v then .refused .lengthAboveBound else .next { s with ftn := v, valid := s.valid.afterFT }

/-- R27: a write to `CTN` commits a code table. -/
def writeCTN (s : State) (v : Nat) : HostOutcome :=
  if s.par.nsymMax < v then .refused .lengthAboveBound else .next { s with ctn := v, valid := s.valid.afterCT }

/-- R30: a write to `OLEN` presents a payload. -/
def writeOLEN (s : State) (v : Nat) : HostOutcome :=
  if s.par.oMax < v then .refused .lengthAboveBound else .next { s with olen := v, valid := s.valid.loseOUT }

/-- 10_state.md section 2: a host write to a register. A write to a register the host may not write (`STATUS`, `NODEN`, `ROOT`, `BITLEN`,
`PAD`, `DLEN`) has no effect. -/
def hostWriteReg (s : State) (reg v : Nat) : HostOutcome :=
  match reg with
  | 0 => writeCMD s v
  | 1 => .next s
  | 2 => writeILEN s v
  | 3 => writeFTN s v
  | 4 => .next s
  | 5 => .next s
  | 6 => writeCTN s v
  | 7 => .next s
  | 8 => .next s
  | 9 => writeOLEN s v
  | 10 => .next s
  | _ => .refused .noSuchRegister

/-- 20_memory.md R60: the number of entries of a memory, or nothing for a number that names none. -/
def memEntries (p : Params) (mem : Nat) : Option Nat :=
  match mem with
  | 0 => some p.nMax
  | 1 => some p.nsymMax
  | 2 => some p.nodeMax
  | 3 => some p.nsymMax
  | 4 => some p.oMax
  | 5 => some p.dMax
  | _ => none

/-- R32, R42: a write of `IMEM[i]` changes no valid bit. -/
def writeIMEM (s : State) (i v : Nat) : HostOutcome :=
  if 2 ^ s.par.symW ≤ v then .refused .valueTooWide else .next { s with imem := s.imem.write i v }

/-- R33, R42: a write of `FT[i]` invalidates the whole chain. -/
def writeFT (s : State) (i v : Nat) : HostOutcome :=
  if 2 ^ ftWidth s.par ≤ v then .refused .valueTooWide
  else .next { s with ft := s.ft.write i (decodeFt s.par v), valid := s.valid.loseFT }

/-- R35, R42: a write of `CT[i]` invalidates `CT` and `OUT`. -/
def writeCT (s : State) (i v : Nat) : HostOutcome :=
  if 2 ^ ctWidth s.par ≤ v then .refused .valueTooWide
  else .next { s with ct := s.ct.write i (decodeCt s.par v), valid := s.valid.loseCT }

/-- R36, R42: a write of `OMEM[i]` invalidates `OUT`. -/
def writeOMEM (s : State) (i v : Nat) : HostOutcome :=
  if 256 ≤ v then .refused .valueTooWide
  else .next { s with omem := Memory.write s.omem i (BitVec.ofNat 8 v), valid := s.valid.loseOUT }

/-- 20_memory.md R60, R68: a host write to a memory. A write to `NODE` or `DMEM` has no effect. -/
def hostWriteMem (s : State) (mem i v : Nat) : HostOutcome :=
  match memEntries s.par mem with
  | none => .refused .noSuchMemory
  | some n =>
    if n ≤ i then .refused .indexOutOfRange
    else
      match mem with
      | 0 => writeIMEM s i v
      | 1 => writeFT s i v
      | 3 => writeCT s i v
      | 4 => writeOMEM s i v
      | _ => .next s

/-- A host read returns the number `v`; nothing else changes (20_memory.md R67). -/
def State.returnRead (s : State) (v : Nat) : State := { s with reads := s.reads ++ [v] }

/-- The value of a register as the host reads it; `CMD` reads as 0 (10_state.md section 2). -/
def regValue (s : State) (reg : Nat) : Option Nat :=
  match reg with
  | 0 => some 0
  | 1 => some (statusWord s).toNat
  | 2 => some s.ilen
  | 3 => some s.ftn
  | 4 => some s.noden
  | 5 => some s.root
  | 6 => some s.ctn
  | 7 => some s.bitlen
  | 8 => some s.pad
  | 9 => some s.olen
  | 10 => some s.dlen
  | _ => none

/-- A host read of a register. -/
def hostReadReg (s : State) (reg : Nat) : HostOutcome :=
  match regValue s reg with
  | none => .refused .noSuchRegister
  | some v => .next (s.returnRead v)

/-- The number of a memory's entry as the host reads it, nothing where the entry is unspecified. A `NODE` entry's absent fields are free
values (10_state.md R44; notes/assumptions/6.md). -/
def entryValue (s : State) (mem i : Nat) : Option Nat :=
  match mem with
  | 0 => s.imem.read i
  | 1 => (s.ft.read i).map (encodeFt s.par)
  | 2 => (s.node.read i).map (encodeNode s.par (Config.freeBits s.fresh) (Config.freeBits (s.fresh + 1)))
  | 3 => (s.ct.read i).map (encodeCt s.par)
  | 4 => (Memory.read s.omem i).map BitVec.toNat
  | 5 => s.dmem.read i
  | _ => none

/-- Two free values have been drawn. -/
def State.drawTwo (s : State) : State := { s with fresh := s.fresh + 2 }

/-- A host read of a memory entry. A read of an unspecified entry faults (10_state.md R44, U1). A read draws two free values, whether the
entry has absent fields or not. -/
def hostReadMem (s : State) (mem i : Nat) : HostOutcome :=
  match memEntries s.par mem with
  | none => .refused .noSuchMemory
  | some n =>
    if n ≤ i then .refused .indexOutOfRange
    else
      match entryValue s mem i with
      | none => .fault .unspecifiedRead
      | some v => .next (s.returnRead v).drawTwo

/-- 20_memory.md R71: a read of `STATUS` while a command runs completes at once; only `BUSY = 1` is specified (10_state.md R22). -/
def pollBusy (s : State) : State := (s.returnRead (busyStatusWord (Config.freeBits s.fresh)).toNat).drawTwo

/-- 70_reset_and_hazards.md R235, R236: a hardware reset: the reset state of the instance. The host's script, the values it has read and
the counter of free values are the host's and the model's, not the block's, and stay. -/
def hardReset (s : State) : State :=
  { State.resetOf s.par with script := s.script, reads := s.reads, fresh := s.fresh }

/-- A host access made while no command runs. -/
def hostAccess (s : State) : HostAccess → HostOutcome
  | .writeReg reg v => hostWriteReg s reg v
  | .writeMem mem i v => hostWriteMem s mem i v
  | .readReg reg => hostReadReg s reg
  | .readMem mem i => hostReadMem s mem i
  | .pollStatus => hostReadReg s 1
  | .hardReset => .next (hardReset s)

end Sys2Proof.Machine
end

