-- ==== Sys2Proof/Machine/Sequencer.lean ====
section
/-! DEFINITION. Which agent moves next and what it does (20_memory.md R69 to R73, 10_state.md R21, R45). -/

namespace Sys2Proof.Machine

/-- The next host access is taken from the script. -/
def State.withScript (s : State) (rest : List HostAccess) : State := { s with script := rest }

/-- 20_memory.md R71, 70_reset_and_hazards.md R235: the events that do not wait for the end of a running command: a poll of `STATUS` and a
hardware reset. -/
def HostAccess.duringCommand : HostAccess → Bool
  | .writeReg _ _ => false
  | .writeMem _ _ _ => false
  | .readReg _ => false
  | .readMem _ _ => false
  | .pollStatus => true
  | .hardReset => true

/-- The host's next event lands while the command runs. -/
def State.interrupted (s : State) : Bool :=
  match s.script with
  | [] => false
  | a :: _ => a.duringCommand

/-- 00_scope.md R10: the running command `w` as one transition to its end. The word was checked when it was written to `CMD`, so the last
case does not arise; it is the error an illegal word raises (60_exceptions.md R218). -/
def runCommand (s : State) (w : Byte) : HostOutcome :=
  match decodeWord w with
  | .command i => exec i s
  | .illegal _ => (endError s .illegalCommand).outcome

/-- One event: while a command runs, a poll or a reset at the head of the script, else the command itself, every other access being held
(20_memory.md R71); when no command runs, the host's next access; with no access left the block is idle and waits (70_reset_and_hazards.md
R236, R243). -/
def nextEvent (s : State) : HostOutcome :=
  match s.cmd, s.script with
  | some _, .pollStatus :: rest => .next (pollBusy (s.withScript rest))
  | some _, .hardReset :: rest => .next (hardReset (s.withScript rest))
  | some w, _ => runCommand s w
  | none, [] => .next s
  | none, a :: rest => hostAccess (s.withScript rest) a

/-- The running command's word is `w`, as after a write of it to `CMD`, and the next step runs it: no poll or reset comes first. -/
def State.startCommand (s : State) (w : Byte) : State :=
  { s with cmd := some w, script := s.script.dropWhile HostAccess.duringCommand }

end Sys2Proof.Machine
end

