-- ==== Sys2Proof/Machine/Step.lean ====
section
/-! DEFINITION. One step of the machine, and how the host of the pipeline places a command word where the next step runs it. -/

namespace Sys2Proof.Machine

/-- One step: the next event (Machine/Sequencer.lean). -/
def step (s : State) : Host.Outcome State Fault Refusal := nextEvent s

/-- The state in which the command word `w` has been taken from `CMD` and the next step runs it (notes/assumptions/2.md): the block fetches
nothing from a memory, a command comes as a write to `CMD` (10_state.md R45). A command word has 8 bits, so a word of another width
is cut to 8. -/
def State.withFetchWord (s : State) (_nbits w : Nat) : State := s.startCommand (BitVec.ofNat 8 w)

end Sys2Proof.Machine
end

