-- ==== Sys2Proof/Safety.lean ====
section
/-! DEFINITION. What holds of a good state (the spec's own invariants), and the notions of the spec that claims speak of: the tree
of `NODE` and paths in it. Nothing here is part of the step. -/

namespace Sys2Proof.Machine

/-! ### Memories -/

/-- All six memories have the canonical form. -/
structure Canonical (s : State) : Prop where
  imem : s.imem.wf = true
  ft : s.ft.wf = true
  node : s.node.wf = true
  ct : s.ct.wf = true
  omem : Memory.wf s.omem = true
  dmem : s.dmem.wf = true

/-! ### Code tables -/

/-- 10_state.md R35 `WF_CT`, as the rule says it: (a) the symbols are pairwise different, (b) every length is at least 1, (c) `val < 2 ^ len`,
(d) no code is a prefix of another. The commands' own check `wfCT` is this one (`wfCT_iff`, Laws/Tables.lean). -/
structure WellFormedCT (table : List CtEntry) : Prop where
  symbols : (table.map CtEntry.sym).Nodup
  nonempty : ∀ e ∈ table, 1 ≤ e.len
  fits : ∀ e ∈ table, e.val < 2 ^ e.len
  prefixFree : table.Pairwise (fun a b => ¬ a.code <+: b.code ∧ ¬ b.code <+: a.code)

/-! ### The tree -/

/-- The child indices of a node, none for a leaf (10_state.md R34). -/
def Node.children : Node → List Nat
  | .leaf _ _ => []
  | .internal _ l r => [l, r]

/-- All child indices of the nodes, in order. -/
def childIndices (nodes : List Node) : List Nat := nodes.flatMap Node.children

/-- The symbols of the leaves, in order. -/
def leafSyms : List Node → List Sym
  | [] => []
  | .leaf x _ :: rest => x :: leafSyms rest
  | .internal _ _ _ :: rest => leafSyms rest

/-- The number of leaves of an arena of `NODEN` nodes (42_code_assigner.md R158). -/
def leafCount (noden : Nat) : Nat := (noden + 1) / 2

/-- 41_tree_builder.md R129: the key of the node at index `i`. -/
def keyAt (nodes : List Node) (i : Nat) : Key := { freq := (nodes[i]?.map Node.freq).getD 0, idx := i }

/-- 10_state.md R34, 41_tree_builder.md R138: the nodes are one strictly binary tree: leaves first, then internal nodes; children below their
parent and different; an internal node's frequency is the sum of its children's; every index but the root's is the child of
exactly one node, and the root of none. -/
structure TreeShape (nodes : List Node) (root : Nat) : Prop where
  odd : nodes.length % 2 = 1
  rootLast : root + 1 = nodes.length
  leaves : ∀ i, i < leafCount nodes.length → ∃ x f, nodes[i]? = some (.leaf x f)
  internals : ∀ k, leafCount nodes.length ≤ k → k < nodes.length →
    ∃ l r, nodes[k]? = some (.internal ((keyAt nodes l).freq + (keyAt nodes r).freq) l r) ∧ l < k ∧ r < k ∧ l ≠ r
  owned : ∀ i, i < nodes.length → (childIndices nodes).count i = if i = root then 0 else 1

/-- The structure `TREE` holds a tree whose leaves have different symbols and counts of at least 1. -/
def TreeOk (s : State) : Prop :=
  ∃ nodes, s.nodes = some nodes ∧ TreeShape nodes s.root ∧ (leafSyms nodes).Nodup ∧ ∀ n ∈ nodes, 1 ≤ n.freq

/-- A valid `TREE` is a tree. -/
def TreeInv (s : State) : Prop := s.valid.tree = true → TreeOk s

/-- 30_encoding.md R93: the node reached from node `i` by the steps of a bit string, 0 to the left and 1 to the right. -/
def follow (nodes : List Node) : Nat → Bits → Option Nat
  | i, [] => some i
  | i, b :: rest =>
    match nodes[i]? with
    | some (.internal _ l r) => follow nodes (if b then r else l) rest
    | _ => none

/-! ### Valid bits and outputs -/

/-- What the chain of 10_state.md R42 implies between valid bits: a valid `TREE` was built from a still valid `FT`, a valid `OUT` was packed with
a still valid `CT`. -/
structure ChainInv (s : State) : Prop where
  tree : s.valid.tree = true → s.valid.ft = true
  out : s.valid.out = true → s.valid.ct = true

/-- 43_bit_packer.md R176 (a), (c), (d), (e): the payload and the three registers beside it agree. -/
def PayloadOk (s : State) : Prop :=
  ∃ bits packed, s.payload = some (BitVec.ofNat 8 s.pad :: packed) ∧ s.bitlen = bits.length ∧ s.pad = 8 - bits.length % 8 ∧
    packed.flatMap bitsOf = bits ++ List.replicate s.pad false

/-- A valid `OUT` is a payload, and a valid `DEC` can be read whole. -/
structure OutputInv (s : State) : Prop where
  out : s.valid.out = true → PayloadOk s
  dec : s.valid.dec = true → s.decoded.isSome = true

/-! ### Ranges (00_scope.md R8) -/

/-- The fields of a `NODE` entry fit their widths (30_encoding.md R90). -/
def Node.fits (p : Params) : Node → Prop
  | .leaf x f => x < 2 ^ p.symW ∧ f < 2 ^ p.freqW
  | .internal f l r => f < 2 ^ p.freqW ∧ l < 2 ^ p.idxW ∧ r < 2 ^ p.idxW

/-- The fields of an `FT` entry fit their widths (30_encoding.md R89). -/
def FtEntry.fits (p : Params) (e : FtEntry) : Prop := e.sym < 2 ^ p.symW ∧ e.cnt < 2 ^ p.lenW

/-- The fields of a `CT` entry fit their widths (30_encoding.md R91). -/
def CtEntry.fits (p : Params) (e : CtEntry) : Prop := e.sym < 2 ^ p.symW ∧ e.len < 2 ^ p.clenW ∧ e.val < 2 ^ p.clenMax

/-- Every register and every entry fits its width, and every entry lies inside its memory (00_scope.md R8, 10_state.md section 2, 20_memory.md
R60). -/
structure InRange (s : State) : Prop where
  ilen : s.ilen ≤ s.par.nMax
  ftn : s.ftn ≤ s.par.nsymMax
  noden : s.noden ≤ s.par.nodeMax
  root : s.root ≤ s.par.nodeMax
  ctn : s.ctn ≤ s.par.nsymMax
  bitlen : s.bitlen < 2 ^ s.par.bitlenW
  pad : s.pad ≤ 8
  olen : s.olen ≤ s.par.oMax
  dlen : s.dlen ≤ s.par.dMax
  imem : ∀ e ∈ s.imem, e.1 < s.par.nMax ∧ e.2 < 2 ^ s.par.symW
  ft : ∀ e ∈ s.ft, e.1 < s.par.nsymMax ∧ e.2.fits s.par
  node : ∀ e ∈ s.node, e.1 < s.par.nodeMax ∧ e.2.fits s.par
  ct : ∀ e ∈ s.ct, e.1 < s.par.nsymMax ∧ e.2.fits s.par
  omem : ∀ e ∈ s.omem, e.1 < s.par.oMax
  dmem : ∀ e ∈ s.dmem, e.1 < s.par.dMax ∧ e.2 < 2 ^ s.par.symW

/-- 60_exceptions.md R210, R212: `ERR` never holds the code reserved for the host. -/
def ErrInv (s : State) : Prop := s.err ≠ .inputUnavailable

/-- All of it. -/
structure Good (s : State) : Prop where
  canonical : Canonical s
  tree : TreeInv s
  chain : ChainInv s
  outputs : OutputInv s
  range : InRange s
  err : ErrInv s

end Sys2Proof.Machine
end

