-- ==== Sys2Proof/Certificates/Slice0/Obligations.lean ====
section
/-! DEFINITION. The statements for the provers, each from a rule of spec/ (cited in its docstring and in OBLIGATIONS.json). -/

open Sys2Proof Sys2Proof.Machine

/-! ### Encodings -/

/-- 30_encoding.md R85, R86, R88: the seven words name the seven commands, and no other word names one. -/
def Obligations.CommandWordsDecode : Prop :=
  decodeTableWord 8 0x01 = some .clear ∧ decodeTableWord 8 0x02 = some .count ∧ decodeTableWord 8 0x03 = some .build ∧
  decodeTableWord 8 0x04 = some .assign ∧ decodeTableWord 8 0x05 = some .pack ∧ decodeTableWord 8 0x06 = some .encode ∧
  decodeTableWord 8 0x07 = some .decode ∧
  ∀ w : Byte, (∃ i, decodeWord w = .command i) ↔ 1 ≤ w.toNat ∧ w.toNat ≤ 7

/-- 30_encoding.md R86: decoding and encoding a command agree in both directions. -/
def Obligations.DecodeEncodeCommand : Prop :=
  (∀ i : Instr, decodeWord (encodeWord i) = .command i ∧ wellFormedWord (encodeWord i) = true) ∧
  (∀ (w : Byte) (i : Instr), decodeWord w = .command i → encodeWord i = w) ∧
  ∀ w : Byte, wellFormedWord w = true ↔ ∃ i, decodeWord w = .command i

/-- 30_encoding.md R89 to R91: for every instance, an entry of `FT`, `CT` or `NODE` whose fields fit is read back from its number, which fits
the entry's width, and every number of that width is the number of the `FT` or `CT` entry read from it. A `NODE` entry is read back
whatever the fields its form does not have are. -/
def Obligations.EntryFormatsRoundTrip : Prop :=
  (∀ (p : Params) (e : FtEntry), e.fits p → decodeFt p (encodeFt p e) = e ∧ encodeFt p e < 2 ^ ftWidth p) ∧
  (∀ (p : Params) (v : Nat), v < 2 ^ ftWidth p → (decodeFt p v).fits p ∧ encodeFt p (decodeFt p v) = v) ∧
  (∀ (p : Params) (e : CtEntry), e.fits p → decodeCt p (encodeCt p e) = e ∧ encodeCt p e < 2 ^ ctWidth p) ∧
  (∀ (p : Params) (v : Nat), v < 2 ^ ctWidth p → (decodeCt p v).fits p ∧ encodeCt p (decodeCt p v) = v) ∧
  (∀ (p : Params) (x y : Nat) (n : Node), n.fits p →
    decodeNode p (encodeNode p x y n) = n ∧ encodeNode p x y n < 2 ^ (1 + p.symW + p.freqW + 2 * p.idxW))

/-- 30_encoding.md R92, 00_scope.md R15: a code is stored as its length and its number, its first bit at bit `len − 1`, nothing at or above bit
`len`, and is read back from them; and `str` inverts `val`. -/
def Obligations.CodeStorageRoundTrip : Prop :=
  (∀ (x : Sym) (b : Bits), (codeEntry x b).sym = x ∧ (codeEntry x b).len = b.length ∧ (codeEntry x b).val < 2 ^ b.length ∧
    (codeEntry x b).code = b ∧ ∀ k, k < b.length → b[k]? = some ((codeEntry x b).val.testBit (b.length - 1 - k))) ∧
  (∀ len v : Nat, v < 2 ^ len → bitsVal (bitsStr len v) = v ∧ (bitsStr len v).length = len)

/-- 00_scope.md R14: `byte_of` and `bits_of` are inverse; the first bit of the string is bit 7 of the byte, and the byte is the sum of its
bits' weights. -/
def Obligations.ByteBitsRoundTrip : Prop :=
  (∀ v : Byte, byteOf (bitsOf v) = v ∧ (bitsOf v).length = 8 ∧ ∀ k, k < 8 → (bitsOf v)[k]? = some (v.getLsbD (7 - k))) ∧
  (∀ b : Bits, b.length = 8 → bitsOf (byteOf b) = b ∧
    (byteOf b).toNat = ∑ k ∈ Finset.range 8, (b.getD k false).toNat * 2 ^ (7 - k))

/-! ### Events: the host and the sequencer -/

/-- 30_encoding.md R88, 60_exceptions.md R218: a write of any word but the seven to `CMD` raises `IllegalCommand`, code 7; no command starts and
nothing else changes. -/
def Obligations.IllegalWordRaisesIllegalCommand : Prop :=
  ErrCode.illegalCommand.code = 7 ∧
  ∀ (s : State) (v : Nat), v < 256 → v = 0 ∨ 8 ≤ v → hostAccess s (.writeReg 0 v) = .next { s with err := .illegalCommand }

/-- 10_state.md R21: a write of one of the seven words to `CMD` while `BUSY = 0` starts the command of that word: `BUSY` is 1 and nothing else
changes until the command's end. -/
def Obligations.CommandWriteStartsCommand : Prop :=
  ∀ (s : State) (v : Nat), 1 ≤ v → v ≤ 7 →
    ∃ t, hostAccess s (.writeReg 0 v) = .next t ∧ t = { s with cmd := some (BitVec.ofNat 8 v) } ∧ t.busy = true

/-- 00_scope.md R10, 20_memory.md R73: a step of the machine with the word of a command running is the meaning of that command, whole, and
nothing around it; this holds too for the word placed by `withFetchWord`, which sets only the running word and drops polls and
resets that would come first. -/
def Obligations.StepRunsDecodedCommand : Prop :=
  (∀ (s : State) (w : Byte) (i : Instr), s.cmd = some w → decodeWord w = .command i → s.interrupted = false →
    step s = exec i s) ∧
  (∀ (s : State) (nbits w : Nat) (i : Instr), decodeTableWord 8 w = some i →
    step (s.withFetchWord nbits w) = exec i (s.withFetchWord nbits w) ∧
    s.withFetchWord nbits w =
      { s with cmd := some (BitVec.ofNat 8 w), script := s.script.dropWhile HostAccess.duringCommand })

/-- 20_memory.md R69, 70_reset_and_hazards.md R236, R243: while no command runs a step is the host's next access, taken in order; with none left
the block is idle and nothing changes. -/
def Obligations.HostAccessIsOneStep : Prop :=
  (∀ (s : State) (a : HostAccess) (rest : List HostAccess), s.cmd = none → s.script = a :: rest →
    step s = hostAccess { s with script := rest } a) ∧
  (∀ s : State, s.cmd = none → s.script = [] → step s = .next s)

/-- 20_memory.md R71: an access other than a `STATUS` poll or a reset that meets a running command is held: the command's step leaves it where
it is and ends with `BUSY = 0`, and the step after that is the access. -/
def Obligations.HeldAccessWaitsForCommand : Prop :=
  ∀ (s t : State) (w : Byte) (a : HostAccess) (rest : List HostAccess), s.cmd = some w → s.script = a :: rest →
    a.duringCommand = false → step s = .next t →
    t.script = a :: rest ∧ t.busy = false ∧ step t = hostAccess { t with script := rest } a

/-- 10_state.md R22, 20_memory.md R71: a poll of `STATUS` while a command runs completes at once and shows `BUSY = 1`; it changes nothing but what
the host has read. No other bit of the value is claimed. -/
def Obligations.PollWhileBusyShowsBusy : Prop :=
  ∀ (s : State) (w : Byte) (rest : List HostAccess), s.cmd = some w → s.script = .pollStatus :: rest →
    ∃ v : BitVec 12, v.getLsbD 0 = true ∧
      step s = .next { s with script := rest, reads := s.reads ++ [v.toNat], fresh := s.fresh + 2 }

/-- 70_reset_and_hazards.md R235, R236: a hardware reset, while a command runs or not, gives the reset state; the host's script, what it has read,
the counter of free values and the parameters are the model's and stay. -/
def Obligations.HardwareResetFromAnyState : Prop :=
  ∀ (s : State) (rest : List HostAccess), s.script = .hardReset :: rest →
    step s = .next { par := s.par, cmd := none, valid := ⟨false, false, false, false, false⟩, err := .ok, ilen := 0, ftn := 0, noden := 0,
                     root := 0, ctn := 0, bitlen := 0, pad := 0, olen := 0, dlen := 0, imem := [], ft := [], node := [], ct := [],
                     omem := [], dmem := [], script := rest, reads := s.reads, fresh := s.fresh }

/-- 70_reset_and_hazards.md R236, 10_state.md R47: a hardware reset leaves the state in which `STATUS` is 0, every register is 0, every memory
entry is unspecified, and no command runs: the block is idle. (`par`, `script`, `reads`, `fresh` are the model's own fields.) -/
def Obligations.StateAfterReset : Prop :=
  State.reset = State.resetOf State.reset.par ∧
  (∀ s : State, hostAccess s .hardReset =
    .next { State.resetOf s.par with script := s.script, reads := s.reads, fresh := s.fresh }) ∧
  ∀ p : Params, statusWord (State.resetOf p) = 0 ∧ (State.resetOf p).busy = false ∧
    (State.resetOf p).ilen = 0 ∧ (State.resetOf p).ftn = 0 ∧ (State.resetOf p).noden = 0 ∧ (State.resetOf p).root = 0 ∧
    (State.resetOf p).ctn = 0 ∧ (State.resetOf p).bitlen = 0 ∧ (State.resetOf p).pad = 0 ∧ (State.resetOf p).olen = 0 ∧
    (State.resetOf p).dlen = 0 ∧
    ∀ i, (State.resetOf p).imem.read i = none ∧ (State.resetOf p).ft.read i = none ∧ (State.resetOf p).node.read i = none ∧
      (State.resetOf p).ct.read i = none ∧ Memory.read (State.resetOf p).omem i = none ∧ (State.resetOf p).dmem.read i = none

/-- 70_reset_and_hazards.md R237: what each command does as the first one after reset. -/
def Obligations.CommandsFromReset : Prop :=
  ∀ p : Params,
    exec .clear (State.resetOf p) = .next (State.resetOf p) ∧
    exec .count (State.resetOf p) = .next { State.resetOf p with valid := ⟨true, false, false, false, false⟩ } ∧
    exec .encode (State.resetOf p) =
      .next { State.resetOf p with valid := ⟨true, false, false, false, false⟩, err := .emptyInput } ∧
    exec .build (State.resetOf p) = .next { State.resetOf p with err := .sequenceError } ∧
    exec .assign (State.resetOf p) = .next { State.resetOf p with err := .sequenceError } ∧
    exec .pack (State.resetOf p) = .next { State.resetOf p with err := .sequenceError } ∧
    exec .decode (State.resetOf p) = .next { State.resetOf p with err := .tableMismatch }

/-- 10_state.md R22, 60_exceptions.md R210: the fields of `STATUS`: `BUSY` in bit 0, the valid bits in bits 1 to 5, zero in bits 7:6, the error's
code in bits 11:8, with the codes of R210. -/
def Obligations.StatusWordFields : Prop :=
  (∀ s : State, (statusWord s).getLsbD 0 = s.busy ∧ (statusWord s).getLsbD 1 = s.valid.ft ∧ (statusWord s).getLsbD 2 = s.valid.tree ∧
    (statusWord s).getLsbD 3 = s.valid.ct ∧ (statusWord s).getLsbD 4 = s.valid.out ∧ (statusWord s).getLsbD 5 = s.valid.dec ∧
    (statusWord s).getLsbD 6 = false ∧ (statusWord s).getLsbD 7 = false ∧ (statusWord s).toNat / 256 = s.err.code) ∧
  ErrCode.ok.code = 0 ∧ ErrCode.inputUnavailable.code = 1 ∧ ErrCode.emptyInput.code = 2 ∧ ErrCode.decodeCorruption.code = 3 ∧
  ErrCode.tableMismatch.code = 4 ∧ ErrCode.uncoveredSymbol.code = 5 ∧ ErrCode.sequenceError.code = 6 ∧
  ErrCode.illegalCommand.code = 7

/-- 10_state.md R23, R24, R27, R30, R42: host writes of the four length registers, with the valid bits each sets and clears. -/
def Obligations.HostLengthWrites : Prop :=
  ∀ (s : State) (v : Nat),
    (v < 2 ^ s.par.lenW → hostAccess s (.writeReg 2 v) = .next { s with ilen := v }) ∧
    (v ≤ s.par.nsymMax → hostAccess s (.writeReg 3 v) =
      .next { s with ftn := v, valid := { ft := true, tree := false, ct := false, out := false, dec := s.valid.dec } }) ∧
    (v ≤ s.par.nsymMax → hostAccess s (.writeReg 6 v) =
      .next { s with ctn := v, valid := { s.valid with ct := true, out := false } }) ∧
    (v ≤ s.par.oMax → hostAccess s (.writeReg 9 v) = .next { s with olen := v, valid := { s.valid with out := false } })

/-- 10_state.md section 2, 20_memory.md R60: a host write to a register or memory the host may not write has no effect. -/
def Obligations.HostReadOnlyWritesNoEffect : Prop :=
  ∀ (s : State) (v : Nat),
    (∀ r, r = 1 ∨ r = 4 ∨ r = 5 ∨ r = 7 ∨ r = 8 ∨ r = 10 → hostAccess s (.writeReg r v) = .next s) ∧
    (∀ i, i < s.par.nodeMax → hostAccess s (.writeMem 2 i v) = .next s) ∧
    (∀ i, i < s.par.dMax → hostAccess s (.writeMem 5 i v) = .next s)

/-- 10_state.md R32, R33, R35, R36, R42, 30_encoding.md R89, R91: a host write of a memory entry stores it, its fields cut from the number at the
format's places, leaves every other entry and everything else alone, and clears the valid bits the table gives. An `FT` entry is `SYM_W +
LEN_W` bits wide; in a `CT` entry `val` is the last `CLEN_MAX = 2 ^ SYM_W − 1` bits, `len` the `CLEN_W = SYM_W` bits above, `sym` the `SYM_W`
bits above those. -/
def Obligations.HostMemoryWrites : Prop :=
  ∀ (s : State) (i v : Nat),
    (i < s.par.nMax → v < 2 ^ s.par.symW → ∃ t, hostAccess s (.writeMem 0 i v) = .next t ∧ t = { s with imem := t.imem } ∧
      ∀ j, t.imem.read j = if j = i then some v else s.imem.read j) ∧
    (i < s.par.nsymMax → v < 2 ^ (s.par.symW + s.par.lenW) → ∃ t, hostAccess s (.writeMem 1 i v) = .next t ∧
      t = { s with ft := t.ft, valid := { ft := false, tree := false, ct := false, out := false, dec := s.valid.dec } } ∧
      ∀ j, t.ft.read j = if j = i then some { sym := v / 2 ^ s.par.lenW, cnt := v % 2 ^ s.par.lenW } else s.ft.read j) ∧
    (i < s.par.nsymMax → v < 2 ^ (2 * s.par.symW + (2 ^ s.par.symW - 1)) → ∃ t, hostAccess s (.writeMem 3 i v) = .next t ∧
      t = { s with ct := t.ct, valid := { s.valid with ct := false, out := false } } ∧
      ∀ j, t.ct.read j = if j = i then
          some { sym := v / 2 ^ (s.par.symW + (2 ^ s.par.symW - 1)), len := v / 2 ^ (2 ^ s.par.symW - 1) % 2 ^ s.par.symW,
                 val := v % 2 ^ (2 ^ s.par.symW - 1) }
        else s.ct.read j) ∧
    (i < s.par.oMax → v < 256 → ∃ t, hostAccess s (.writeMem 4 i v) = .next t ∧
      t = { s with omem := t.omem, valid := { s.valid with out := false } } ∧
      ∀ j, Memory.read t.omem j = if j = i then some (BitVec.ofNat 8 v) else Memory.read s.omem j)

/-- 20_memory.md R68, 93_implementation_defined.md U5: host accesses out of range are refused, each under its name. -/
def Obligations.HostOutOfRangeRefused : Prop :=
  ∀ (s : State) (v : Nat),
    (∀ r, 10 < r → hostAccess s (.writeReg r v) = .refused .noSuchRegister ∧
      hostAccess s (.readReg r) = .refused .noSuchRegister) ∧
    (∀ m n i, memEntries s.par m = some n → n ≤ i → hostAccess s (.writeMem m i v) = .refused .indexOutOfRange ∧
      hostAccess s (.readMem m i) = .refused .indexOutOfRange) ∧
    (s.par.nsymMax < v → hostAccess s (.writeReg 3 v) = .refused .lengthAboveBound ∧
      hostAccess s (.writeReg 6 v) = .refused .lengthAboveBound) ∧
    (s.par.oMax < v → hostAccess s (.writeReg 9 v) = .refused .lengthAboveBound)

/-- 10_state.md section 2, R22, 20_memory.md R67, R71: a host read of a register returns its value (0 for `CMD`) and changes no state of the block; a
poll of `STATUS` made while no command runs is a read of `STATUS`. -/
def Obligations.HostRegisterReads : Prop :=
  (∀ (s : State) (r v : Nat),
    (r, v) ∈ [(0, 0), (1, (statusWord s).toNat), (2, s.ilen), (3, s.ftn), (4, s.noden), (5, s.root), (6, s.ctn), (7, s.bitlen), (8, s.pad),
      (9, s.olen), (10, s.dlen)] →
    hostAccess s (.readReg r) = .next { s with reads := s.reads ++ [v] }) ∧
  ∀ s : State, hostAccess s .pollStatus = .next { s with reads := s.reads ++ [(statusWord s).toNat] }

/-- 20_memory.md R67, 10_state.md R44, 30_encoding.md R89 to R91: a host read of a specified entry returns the entry's number, its fields at the
format's places, and changes no state of the block. A `NODE` entry's number has its tag on top, then `sym` (`SYM_W` bits), `freq` (`LEN_W +
SYM_W`), `left` and `right` (`SYM_W + 1` each); the fields its form does not have are some numbers of their widths. A read of an
unspecified entry of any memory faults. -/
def Obligations.HostMemoryReads : Prop :=
  ∀ (s : State) (i : Nat),
    (∀ x, i < s.par.nMax → s.imem.read i = some x →
      hostAccess s (.readMem 0 i) = .next { s with reads := s.reads ++ [x], fresh := s.fresh + 2 }) ∧
    (∀ e, i < s.par.nsymMax → s.ft.read i = some e →
      hostAccess s (.readMem 1 i) =
        .next { s with reads := s.reads ++ [e.sym * 2 ^ s.par.lenW + e.cnt], fresh := s.fresh + 2 }) ∧
    (∀ n, i < s.par.nodeMax → s.node.read i = some n → ∃ v,
      hostAccess s (.readMem 2 i) = .next { s with reads := s.reads ++ [v], fresh := s.fresh + 2 } ∧
      (n.fits s.par → decodeNode s.par v = n) ∧
      (∀ x f, n = .leaf x f → ∃ l r, l < 2 ^ (s.par.symW + 1) ∧ r < 2 ^ (s.par.symW + 1) ∧
        v = x * 2 ^ (s.par.lenW + s.par.symW + 2 * (s.par.symW + 1)) + f * 2 ^ (2 * (s.par.symW + 1)) + l * 2 ^ (s.par.symW + 1) + r) ∧
      (∀ f l r, n = .internal f l r → ∃ x, x < 2 ^ s.par.symW ∧
        v = 2 ^ (s.par.symW + (s.par.lenW + s.par.symW) + 2 * (s.par.symW + 1)) +
          x * 2 ^ (s.par.lenW + s.par.symW + 2 * (s.par.symW + 1)) + f * 2 ^ (2 * (s.par.symW + 1)) + l * 2 ^ (s.par.symW + 1) + r)) ∧
    (∀ e, i < s.par.nsymMax → s.ct.read i = some e →
      hostAccess s (.readMem 3 i) =
        .next { s with reads := s.reads ++ [e.sym * 2 ^ (s.par.symW + (2 ^ s.par.symW - 1)) + e.len * 2 ^ (2 ^ s.par.symW - 1) + e.val],
                       fresh := s.fresh + 2 }) ∧
    (∀ b : Byte, i < s.par.oMax → Memory.read s.omem i = some b →
      hostAccess s (.readMem 4 i) = .next { s with reads := s.reads ++ [b.toNat], fresh := s.fresh + 2 }) ∧
    (∀ x, i < s.par.dMax → s.dmem.read i = some x →
      hostAccess s (.readMem 5 i) = .next { s with reads := s.reads ++ [x], fresh := s.fresh + 2 }) ∧
    (i < s.par.nMax → s.imem.read i = none → hostAccess s (.readMem 0 i) = .fault .unspecifiedRead) ∧
    (i < s.par.nsymMax → s.ft.read i = none → hostAccess s (.readMem 1 i) = .fault .unspecifiedRead) ∧
    (i < s.par.nodeMax → s.node.read i = none → hostAccess s (.readMem 2 i) = .fault .unspecifiedRead) ∧
    (i < s.par.nsymMax → s.ct.read i = none → hostAccess s (.readMem 3 i) = .fault .unspecifiedRead) ∧
    (i < s.par.oMax → Memory.read s.omem i = none → hostAccess s (.readMem 4 i) = .fault .unspecifiedRead) ∧
    (i < s.par.dMax → s.dmem.read i = none → hostAccess s (.readMem 5 i) = .fault .unspecifiedRead)

/-! ### CLEAR and COUNT -/

/-- 44_encoder_facade.md R188, R186: `CLEAR`, from any state: all registers to their reset values, the memories as they were. -/
def Obligations.ClearCompletes : Prop :=
  ∀ s : State, exec .clear s =
    .next { s with cmd := none, valid := ⟨false, false, false, false, false⟩, err := .ok, ilen := 0, ftn := 0, noden := 0, root := 0,
                   ctn := 0, bitlen := 0, pad := 0, olen := 0, dlen := 0 }

/-- 40_frequency_counter.md R116, R117: `COUNT` on a written input ends OK with a table in which (a) symbols are pairwise different and counts at
least 1, (b) the counts add up to `ILEN`, (c) every symbol of the input has the number of its occurrences, (d) entries stand in order of
first occurrence; entries beyond the table are unspecified and nothing else changes but the valid bits and `ERR`. -/
def Obligations.CountCompletes : Prop :=
  ∀ (s : State) (input : List Sym), s.input = some input →
    ∃ (t : State) (table : List FtEntry), exec .count s = .next t ∧ (∀ i, t.ft.read i = table[i]?) ∧ t.ftn = table.length ∧
      (table.map FtEntry.sym).Nodup ∧ (∀ e : FtEntry, e ∈ table ↔ 1 ≤ e.cnt ∧ input.count e.sym = e.cnt) ∧
      (table.map FtEntry.cnt).sum = s.ilen ∧
      (∀ (i j : Nat) (a b : FtEntry), table[i]? = some a → table[j]? = some b → (i < j ↔ input.idxOf a.sym < input.idxOf b.sym)) ∧
      t = { s with cmd := none, err := .ok, ft := t.ft, ftn := t.ftn,
                   valid := { ft := true, tree := false, ct := false, out := false, dec := s.valid.dec } }

/-- The frame of `COUNT` (40_frequency_counter.md R116, R119): only `FT`, `FTN` and `STATUS` change, with the valid bits of 10_state.md R42. -/
def Obligations.CountFrame : Prop :=
  ∀ s t : State, exec .count s = .next t →
    t = { s with cmd := none, err := .ok, ft := t.ft, ftn := t.ftn,
                 valid := { ft := true, tree := false, ct := false, out := false, dec := s.valid.dec } }

/-- 10_state.md R44, 93_implementation_defined.md U1: a command that reads an entry nothing has written faults; the model holds no value there.
`COUNT` and `ENCODE` read the whole input; `PACK` reads it up to the first symbol without an entry; `DECODE` reads the header and, where it is
at most 8, every packed byte (notes/assumptions/5.md, 17.md). -/
def Obligations.UnspecifiedInputFaults : Prop :=
  ∀ s : State,
    (s.input = none → exec .count s = .fault .unspecifiedRead ∧ exec .encode s = .fault .unspecifiedRead) ∧
    ∀ table : List CtEntry, s.valid.ct = true → s.ctTable = some table → WellFormedCT table →
      (∀ es : List CtEntry, (∀ e ∈ es, e ∈ table) → es.length < s.ilen → s.imem.readRange 0 es.length = some (es.map CtEntry.sym) →
        s.imem.read es.length = none → exec .pack s = .fault .unspecifiedRead) ∧
      (s.olen ≠ 0 → Memory.read s.omem 0 = none → exec .decode s = .fault .unspecifiedRead) ∧
      (∀ (header : Byte) (k : Nat), Memory.read s.omem 0 = some header → header.toNat ≤ 8 → 1 ≤ k → k < s.olen →
        Memory.read s.omem k = none → exec .decode s = .fault .unspecifiedRead)

/-! ### Errors before a command does anything -/

/-- 60_exceptions.md R217, R215, R220: `BUILD`, `ASSIGN` and `PACK` without the structure they read raise `SequenceError`, `DECODE` without a table
raises `TableMismatch`, and nothing else changes; `COUNT`, `ENCODE` and `CLEAR` never raise `SequenceError`. -/
def Obligations.MissingStructureErrors : Prop :=
  ErrCode.sequenceError.code = 6 ∧ ErrCode.tableMismatch.code = 4 ∧
  (∀ s t : State, exec .count s = .next t ∨ exec .encode s = .next t ∨ exec .clear s = .next t → t.err ≠ .sequenceError) ∧
  ∀ s : State,
    (s.valid.ft = false → exec .build s = .next { s with cmd := none, err := .sequenceError }) ∧
    (s.valid.tree = false → exec .assign s = .next { s with cmd := none, err := .sequenceError }) ∧
    (s.valid.ct = false → exec .pack s = .next { s with cmd := none, err := .sequenceError }) ∧
    (s.valid.ct = false → exec .decode s = .next { s with cmd := none, err := .tableMismatch })

/-- 41_tree_builder.md R127, 60_exceptions.md R220: `BUILD` on an empty table raises `EmptyInput`; the tree's registers and nodes stay, its valid bit
and those after it are cleared. -/
def Obligations.BuildEmptyInput : Prop :=
  ∀ s : State, s.valid.ft = true → s.ftn = 0 →
    exec .build s = .next { s with cmd := none, err := .emptyInput, valid := { s.valid with tree := false, ct := false, out := false } }

/-- 93_implementation_defined.md U3, U4: `BUILD`, `PACK` and `DECODE` are not admitted on a committed table that has an unwritten entry or breaks its
well-formedness: they are refused by name. -/
def Obligations.IllFormedTablesRefused : Prop :=
  ∀ s : State,
    (s.valid.ft = true → s.ftn ≠ 0 → (∀ table, s.ftTable = some table → ¬ ((table.map FtEntry.sym).Nodup ∧ ∀ e ∈ table, 1 ≤ e.cnt)) →
      exec .build s = .refused .illFormedFT) ∧
    (s.valid.ct = true →
      (∀ table, s.ctTable = some table → ¬ ((table.map CtEntry.sym).Nodup ∧ (∀ e ∈ table, 1 ≤ e.len ∧ e.val < 2 ^ e.len) ∧
        table.Pairwise (fun a b => ¬ a.code <+: b.code ∧ ¬ b.code <+: a.code))) →
      exec .pack s = .refused .illFormedCT ∧ exec .decode s = .refused .illFormedCT)

/-! ### BUILD -/

/-- 41_tree_builder.md R137, R138: for every well-formed table of `n ≥ 1` entries there is one arena of nodes with (b) the table's entries as leaves,
(c), (d) one strictly binary tree, the smaller key on the left, (e) the sum of the counts at the root, which (f) every `BUILD` on that
valid table ends OK with, whatever else the state holds: (a) `2n − 1` nodes, the last the root; nothing else changes but the valid
bits and `ERR`. Where `COUNT` has just written the table the sum is `ILEN`. -/
def Obligations.BuildCompletes : Prop :=
  ∀ table : List FtEntry, table ≠ [] → (table.map FtEntry.sym).Nodup → (∀ e ∈ table, 1 ≤ e.cnt) →
    ∃ nodes : List Node, nodes.length = 2 * table.length - 1 ∧
      (∀ (i : Nat) (e : FtEntry), table[i]? = some e → nodes[i]? = some (.leaf e.sym e.cnt)) ∧
      TreeShape nodes (2 * table.length - 2) ∧
      (∀ k f l r : Nat, nodes[k]? = some (.internal f l r) → (keyAt nodes l).less (keyAt nodes r) = true) ∧
      (keyAt nodes (2 * table.length - 2)).freq = (table.map FtEntry.cnt).sum ∧
      ∀ s : State, s.valid.ft = true → s.ftTable = some table →
        ∃ t : State, exec .build s = .next t ∧ (∀ i, t.node.read i = nodes[i]?) ∧ t.noden = 2 * s.ftn - 1 ∧ t.root = 2 * s.ftn - 2 ∧
          (∀ s0 : State, exec .count s0 = .next s → (keyAt nodes t.root).freq = s0.ilen) ∧
          t = { s with cmd := none, err := .ok, node := t.node, noden := t.noden, root := t.root,
                       valid := { ft := true, tree := true, ct := false, out := false, dec := s.valid.dec } }

/-- 41_tree_builder.md R129, R131, R132, R136: each merge takes the two least keys. When node `k` is made, the queue holds the nodes before `k` that
have no parent yet; its left child has the least key of them, its right child the least of the rest. -/
def Obligations.BuildMergesLeastKeys : Prop :=
  ∀ (s : State) (table : List FtEntry), s.valid.ft = true → s.ftTable = some table → table ≠ [] →
    (table.map FtEntry.sym).Nodup → (∀ e ∈ table, 1 ≤ e.cnt) →
    ∃ (t : State) (nodes : List Node), exec .build s = .next t ∧ t.nodes = some nodes ∧
      ∀ k, table.length ≤ k → k < nodes.length → ∃ f l r, nodes[k]? = some (.internal f l r) ∧
        (l < k ∧ l ∉ childIndices (nodes.take k)) ∧ (r < k ∧ r ∉ childIndices (nodes.take k)) ∧
        (keyAt nodes l).less (keyAt nodes r) = true ∧
        ∀ j, j < k → j ∉ childIndices (nodes.take k) → j ≠ l → j ≠ r → (keyAt nodes r).less (keyAt nodes j) = true

/-- The frame of `BUILD` (41_tree_builder.md R137, 60_exceptions.md R220): only `TREE` and `STATUS` change, `TREE` only where it ends OK; `V_FT` and
`V_DEC` stay. -/
def Obligations.BuildFrame : Prop :=
  ∀ s t : State, exec .build s = .next t →
    t = { s with cmd := none, err := t.err, valid := t.valid, node := t.node, noden := t.noden, root := t.root } ∧
    t.valid.ft = s.valid.ft ∧ t.valid.dec = s.valid.dec ∧
    (t.err ≠ .ok → t.node = s.node ∧ t.noden = s.noden ∧ t.root = s.root)

/-! ### ASSIGN -/

/-- 42_code_assigner.md R154, R157: `ASSIGN` on a valid tree with `n` leaves ends OK with (a) `n` entries, entry `i` for leaf `i`, (b) each code the
path from the root to its leaf, of at most `n − 1` bits, and `"0"` where there is one leaf, (c), (d), (e) a well-formed table; nothing else
changes but the valid bits and `ERR`. -/
def Obligations.AssignCompletes : Prop :=
  ∀ (s : State) (nodes : List Node), s.valid.tree = true → TreeOk s → s.nodes = some nodes →
    ∃ (t : State) (table : List CtEntry), exec .assign s = .next t ∧ (∀ i, t.ct.read i = table[i]?) ∧
      t.ctn = leafCount s.noden ∧ table.length = leafCount s.noden ∧
      (∀ (i : Nat) (e : CtEntry), table[i]? = some e → ∃ f : Nat, nodes[i]? = some (.leaf e.sym f)) ∧
      (1 < table.length → ∀ (i : Nat) (e : CtEntry), table[i]? = some e → follow nodes s.root e.code = some i ∧ e.len ≤ table.length - 1) ∧
      (table.length = 1 → ∀ e ∈ table, e.code = [false]) ∧
      (table.map CtEntry.sym).Nodup ∧ (∀ e ∈ table, 1 ≤ e.len ∧ e.val < 2 ^ e.len) ∧
      table.Pairwise (fun a b => ¬ a.code <+: b.code ∧ ¬ b.code <+: a.code) ∧
      t = { s with cmd := none, err := .ok, ct := t.ct, ctn := t.ctn, valid := { s.valid with ct := true, out := false } }

/-- 42_code_assigner.md R157 (f): the codes of two or more leaves are complete: their weights `2 ^ (−len)` add up to 1, and every bit string is a
proper prefix of some code or has a code as a prefix. -/
def Obligations.CodesAreComplete : Prop :=
  ∀ (s t : State) (table : List CtEntry), TreeOk s → exec .assign s = .next t → t.err = .ok → t.ctTable = some table →
    1 < table.length →
    (table.map (fun e => 2 ^ (table.length - 1 - e.len))).sum = 2 ^ (table.length - 1) ∧
    ∀ b : Bits, (∃ e ∈ table, b <+: e.code ∧ b ≠ e.code) ∨ (∃ e ∈ table, e.code <+: b)

/-- 42_code_assigner.md R157 (g): the counts weighted by the code lengths add up to the internal nodes' frequencies, and to the one leaf's count
where there is one leaf. -/
def Obligations.WeightedCodeLength : Prop :=
  ∀ (s t : State) (nodes : List Node) (table : List CtEntry), TreeOk s → s.nodes = some nodes → exec .assign s = .next t →
    t.err = .ok → t.ctTable = some table →
    (List.zipWith (fun n e => n.freq * e.len) (nodes.take table.length) table).sum =
      if table.length = 1 then (nodes.map Node.freq).sum else ((nodes.drop table.length).map Node.freq).sum

/-- The frame of `ASSIGN` (42_code_assigner.md R154, 60_exceptions.md R220): only `CT`, `CTN` and `STATUS` change, and only `ERR` where it ends in an
error; `V_FT`, `V_TREE` and `V_DEC` stay. -/
def Obligations.AssignFrame : Prop :=
  ∀ s t : State, exec .assign s = .next t →
    t = { s with cmd := none, err := t.err, valid := t.valid, ct := t.ct, ctn := t.ctn } ∧
    t.valid.ft = s.valid.ft ∧ t.valid.tree = s.valid.tree ∧ t.valid.dec = s.valid.dec ∧
    (t.err ≠ .ok → t.valid = s.valid ∧ t.ct = s.ct ∧ t.ctn = s.ctn)

/-- 42_code_assigner.md R156: the walk by an explicit stack writes the same entries in the same order as the recursive walk, in as many visits as
the part of the tree it walks has nodes. -/
def Obligations.StackWalkWritesSameEntries : Prop :=
  ∀ (nodes : Memory Node) (fuel i : Nat) (path : Bits) (entries : List (Nat × CtEntry)),
    walk nodes fuel i path = some entries → walkStack nodes (2 * entries.length - 1) [(i, path)] = some entries

/-! ### PACK -/

/-- 43_bit_packer.md R168 to R172, R176: `PACK` on an input whose symbols all stand in a valid well-formed table ends OK: the packed bytes are the
codes in input order followed by `8 − (L mod 8)` zeros, most significant bit first; the header, `PAD`, `OLEN`, `BITLEN` are as R176 says;
nothing outside `OUT` changes but `V_OUT` and `ERR`. The empty input (R177) is among them. PackFrame speaks of `OMEM` beyond the payload. -/
def Obligations.PackCompletes : Prop :=
  ∀ (s : State) (table es : List CtEntry) (bits : Bits), s.valid.ct = true → s.ctTable = some table → WellFormedCT table →
    (∀ e ∈ es, e ∈ table) → s.input = some (es.map CtEntry.sym) → bits = es.flatMap CtEntry.code →
    ∃ (t : State) (packed : List Byte), exec .pack s = .next t ∧
      packed.flatMap bitsOf = bits ++ List.replicate (8 - bits.length % 8) false ∧
      Memory.read t.omem 0 = some (BitVec.ofNat 8 (8 - bits.length % 8)) ∧
      (∀ k, k < packed.length → Memory.read t.omem (1 + k) = packed[k]?) ∧ t.olen = 1 + packed.length ∧
      t = { s with cmd := none, err := .ok, omem := t.omem, olen := bits.length / 8 + 2, bitlen := bits.length,
                   pad := 8 - bits.length % 8, valid := { s.valid with out := true } }

/-- 43_bit_packer.md R167, 60_exceptions.md R216, R220: `PACK` at the first input symbol without an entry raises `UncoveredSymbol`, whatever comes
after it in the input: `V_OUT` and the payload's lengths are 0 and `OMEM` is unspecified, all of it in this model
(notes/assumptions/10.md). -/
def Obligations.PackUncoveredSymbol : Prop :=
  ErrCode.uncoveredSymbol.code = 5 ∧
  ∀ (s : State) (table es : List CtEntry) (x : Sym), s.valid.ct = true → s.ctTable = some table → WellFormedCT table →
    (∀ e ∈ es, e ∈ table) → (∀ e ∈ table, e.sym ≠ x) → es.length < s.ilen →
    s.imem.readRange 0 (es.length + 1) = some (es.map CtEntry.sym ++ [x]) →
    exec .pack s = .next { s with cmd := none, err := .uncoveredSymbol, omem := [], olen := 0, bitlen := 0, pad := 0,
                                  valid := { s.valid with out := false } }

/-- The frame of `PACK` (43_bit_packer.md R173, 60_exceptions.md R220): only `OUT` and `STATUS` change; after OK every byte of `OMEM` outside the
payload is as before (the model's reading: notes/assumptions/11.md), after `SequenceError` all of `OUT` is; no valid bit but `V_OUT`
changes. -/
def Obligations.PackFrame : Prop :=
  ∀ s t : State, exec .pack s = .next t →
    t = { s with cmd := none, err := t.err, valid := { s.valid with out := t.valid.out }, omem := t.omem, olen := t.olen,
                 bitlen := t.bitlen, pad := t.pad } ∧
    (t.err = .ok → ∀ a, t.olen ≤ a → Memory.read t.omem a = Memory.read s.omem a) ∧
    (t.err = .sequenceError → t.valid = s.valid ∧ t.omem = s.omem ∧ t.olen = s.olen ∧ t.bitlen = s.bitlen ∧ t.pad = s.pad)

/-- 43_bit_packer.md R175: the byte-serial packer. After emitting any bits its counter, fill count, pointer, accumulator and written bytes are as the
rule's invariant says; after the padding it has written the packed bytes of the padded string and holds nothing. -/
def Obligations.SerialPackerWritesSameBytes : Prop :=
  (∀ e : Bits, (emitBits serialStart e).lc = e.length ∧ (emitBits serialStart e).nacc = e.length % 8 ∧
    (emitBits serialStart e).wp = 1 + e.length / 8 ∧ (emitBits serialStart e).written = packBytes e ∧
    (emitBits serialStart e).acc = bitsVal (e.drop (8 * (e.length / 8)))) ∧
  (∀ bits : Bits, (serialPack bits).written = packBytes (padded bits) ∧ (serialPack bits).nacc = 0 ∧
    (serialPack bits).wp = 1 + (packBytes (padded bits)).length ∧
    8 - (emitBits serialStart bits).nacc = padding bits.length ∧ (emitBits serialStart bits).lc = bits.length)

/-! ### ENCODE -/

/-- 44_encoder_facade.md R185, R187: `ENCODE` on any written non-empty input ends OK, whatever the state held before: all four structures of the
chain are valid, `DEC` is not, the tree is one, the table is well-formed and covers the input, and the payload is the input's codes, padded. It
raises neither `SequenceError` nor `UncoveredSymbol` and is never refused. -/
def Obligations.EncodeCompletes : Prop :=
  ∀ (s : State) (input : List Sym), s.input = some input → input ≠ [] →
    ∃ (t : State) (table es : List CtEntry) (packed : List Byte), exec .encode s = .next t ∧ t.err = .ok ∧ t.cmd = none ∧
      t.valid = ⟨true, true, true, true, false⟩ ∧ t.dlen = 0 ∧ TreeOk t ∧ t.ctTable = some table ∧ WellFormedCT table ∧
      es.map CtEntry.sym = input ∧ (∀ e ∈ es, e ∈ table) ∧ t.bitlen = (es.flatMap CtEntry.code).length ∧
      t.pad = 8 - t.bitlen % 8 ∧ t.payload = some (BitVec.ofNat 8 t.pad :: packed) ∧
      packed.flatMap bitsOf = es.flatMap CtEntry.code ++ List.replicate t.pad false

/-- 44_encoder_facade.md R185, equivalence: on a written non-empty input `ENCODE` ends in the state that `COUNT`, `BUILD`, `ASSIGN` and `PACK` one
after another end in, but for `DLEN` and `V_DEC`, which it clears. -/
def Obligations.EncodeIsFourCommands : Prop :=
  ∀ (s : State) (input : List Sym), s.input = some input → input ≠ [] →
    ∃ t1 t2 t3 t4 : State, exec .count s = .next t1 ∧ exec .build t1 = .next t2 ∧ exec .assign t2 = .next t3 ∧
      exec .pack t3 = .next t4 ∧ t4.err = .ok ∧
      exec .encode s = .next { t4 with dlen := 0, valid := { t4.valid with dec := false } }

/-- 44_encoder_facade.md R187, 60_exceptions.md R220: `ENCODE` on empty input raises `EmptyInput`: `V_FT` is set over an empty table, every derived
register is 0, no payload is produced, and `STATUS` is 0x202. -/
def Obligations.EncodeEmptyInput : Prop :=
  ∀ s : State, s.ilen = 0 → ∃ t, exec .encode s = .next t ∧ statusWord t = 0x202 ∧
    t = { s with cmd := none, valid := ⟨true, false, false, false, false⟩, err := .emptyInput, ftn := 0, noden := 0, root := 0, ctn := 0,
                 bitlen := 0, pad := 0, olen := 0, dlen := 0, ft := [] }

/-- 44_encoder_facade.md R190: what `ENCODE` leaves in `FT`, `TREE`, `CT` and `OUT` is a function of the input alone: two states with the same
written non-empty input, whatever else differs, end with the same tables, tree and payload. -/
def Obligations.EncodeDependsOnInputOnly : Prop :=
  ∀ (s1 s2 : State) (input : List Sym), s1.input = some input → s2.input = some input → input ≠ [] →
    ∃ t1 t2 : State, exec .encode s1 = .next t1 ∧ exec .encode s2 = .next t2 ∧ t1.ft = t2.ft ∧ t1.ftn = t2.ftn ∧ t1.node = t2.node ∧
      t1.noden = t2.noden ∧ t1.root = t2.root ∧ t1.ct = t2.ct ∧ t1.ctn = t2.ctn ∧ t1.bitlen = t2.bitlen ∧ t1.pad = t2.pad ∧
      t1.olen = t2.olen ∧ t1.payload = t2.payload ∧ t1.payload.isSome = true

/-- The frame of `ENCODE` (44_encoder_facade.md R185, R186): `ILEN`, `IMEM` and the entries of `DMEM` never change; after OK no byte of `OMEM`
outside the payload does (the model's reading: notes/assumptions/11.md), and after an error neither `OMEM` nor `NODE` nor `CT`. -/
def Obligations.EncodeFrame : Prop :=
  ∀ s t : State, exec .encode s = .next t →
    t = { s with cmd := none, err := t.err, valid := t.valid, ftn := t.ftn, noden := t.noden, root := t.root, ctn := t.ctn,
                 bitlen := t.bitlen, pad := t.pad, olen := t.olen, dlen := 0, ft := t.ft, node := t.node, ct := t.ct,
                 omem := t.omem } ∧
    t.valid.dec = false ∧ (t.err = .ok ∨ t.err = .emptyInput) ∧
    (t.err = .ok → ∀ a, t.olen ≤ a → Memory.read t.omem a = Memory.read s.omem a) ∧
    (t.err = .emptyInput → t.omem = s.omem ∧ t.node = s.node ∧ t.ct = s.ct)

/-! ### DECODE -/

/-- 45_decoder.md R202: `DECODE` of a payload whose data bits, after the header's padding is dropped, are a concatenation of codes of a valid
well-formed table ends OK with the symbols of those codes; the dropped bits are not looked at (R199). -/
def Obligations.DecodeCompletes : Prop :=
  ∀ (s : State) (table es : List CtEntry) (header : Byte) (packed : List Byte), s.valid.ct = true → s.ctTable = some table →
    WellFormedCT table → s.payload = some (header :: packed) → header.toNat ≤ 8 → header.toNat ≤ 8 * packed.length →
    (∀ e ∈ es, e ∈ table) →
    (packed.flatMap bitsOf).take (8 * packed.length - header.toNat) = es.flatMap CtEntry.code →
    ∃ t : State, exec .decode s = .next t ∧ (∀ i, t.dmem.read i = (es.map CtEntry.sym)[i]?) ∧
      t = { s with cmd := none, err := .ok, dmem := t.dmem, dlen := es.length, valid := { s.valid with dec := true } }

/-- 45_decoder.md R197, R199, 60_exceptions.md R214, R220: `DECODE` raises `DecodeCorruption` on an empty payload, on a header above 8, and on a header
greater than the number of packed bits; the decoded output is lost. -/
def Obligations.DecodeHeaderErrors : Prop :=
  ∀ (s : State) (table : List CtEntry) (header : Byte), s.valid.ct = true → s.ctTable = some table → WellFormedCT table →
    (s.olen = 0 ∨ (s.olen ≠ 0 ∧ Memory.read s.omem 0 = some header ∧ 8 < header.toNat) ∨
      (s.olen = 1 ∧ Memory.read s.omem 0 = some header ∧ 0 < header.toNat)) →
    exec .decode s = .next { s with cmd := none, err := .decodeCorruption, dmem := [], dlen := 0,
                                    valid := { s.valid with dec := false } }

/-- 45_decoder.md R201, R219: after a concatenation of codes, bits that end inside a code raise `DecodeCorruption`, and bits that no code can match
raise `TableMismatch` at the first such bit, whatever follows; the decoded output is lost. -/
def Obligations.DecodeDataErrors : Prop :=
  ∀ (s : State) (table es : List CtEntry) (header : Byte) (packed : List Byte) (q : Bits), s.valid.ct = true →
    s.ctTable = some table → WellFormedCT table → s.payload = some (header :: packed) → header.toNat ≤ 8 →
    header.toNat ≤ 8 * packed.length → (∀ e ∈ es, e ∈ table) → (q = [] ∨ ∃ e ∈ table, q <+: e.code ∧ q ≠ e.code) →
    ((q ≠ [] → (packed.flatMap bitsOf).take (8 * packed.length - header.toNat) = es.flatMap CtEntry.code ++ q →
      exec .decode s = .next { s with cmd := none, err := .decodeCorruption, dmem := [], dlen := 0,
                                      valid := { s.valid with dec := false } }) ∧
     (∀ (b : Bool) (more : Bits), (∀ e ∈ table, ¬ (q ++ [b]) <+: e.code) →
      (packed.flatMap bitsOf).take (8 * packed.length - header.toNat) = es.flatMap CtEntry.code ++ q ++ [b] ++ more →
      exec .decode s = .next { s with cmd := none, err := .tableMismatch, dmem := [], dlen := 0,
                                      valid := { s.valid with dec := false } }))

/-- 70_reset_and_hazards.md R244, 45_decoder.md R202: with a valid well-formed table, `DECODE` of any written payload ends, in OK or in one of its two
errors. -/
def Obligations.DecodeAlwaysEnds : Prop :=
  ∀ (s : State) (table : List CtEntry) (bytes : List Byte), s.valid.ct = true → s.ctTable = some table → WellFormedCT table →
    s.payload = some bytes →
    ∃ t : State, exec .decode s = .next t ∧
      ((t.err = .ok ∧ t.valid.dec = true ∧ t.dlen ≤ 8 * (s.olen - 1)) ∨
       ((t.err = .decodeCorruption ∨ t.err = .tableMismatch) ∧ t.valid.dec = false ∧ t.dlen = 0 ∧ t.dmem = []))

/-- The frame of `DECODE` (45_decoder.md R202, 60_exceptions.md R220): only `DEC` and `STATUS` change, no valid bit but `V_DEC`, and only `ERR` where
the table is missing. -/
def Obligations.DecodeFrame : Prop :=
  ∀ s t : State, exec .decode s = .next t →
    t = { s with cmd := none, err := t.err, valid := { s.valid with dec := t.valid.dec }, dmem := t.dmem, dlen := t.dlen } ∧
    (s.valid.ct = false → t.valid = s.valid ∧ t.dmem = s.dmem ∧ t.dlen = s.dlen)

/-- 45_decoder.md R203, the general case: what a `PACK` that ended OK packed, `DECODE` gives back, the empty input included. -/
def Obligations.RoundTripPackDecode : Prop :=
  ∀ s t : State, exec .pack s = .next t → t.err = .ok →
    ∃ u : State, exec .decode t = .next u ∧ u.err = .ok ∧ u.valid.dec = true ∧ u.dlen = s.ilen ∧ u.decoded = s.input ∧
      s.input.isSome = true

/-- 45_decoder.md R203: from any state with a written non-empty input, `ENCODE` and then `DECODE` end OK with the input in `DMEM`. -/
def Obligations.RoundTripEncodeDecode : Prop :=
  ∀ (s : State) (input : List Sym), s.input = some input → input ≠ [] →
    ∃ t u : State, exec .encode s = .next t ∧ exec .decode t = .next u ∧ u.err = .ok ∧ u.ilen = s.ilen ∧ u.dlen = u.ilen ∧
      u.decoded = some input ∧
      ∀ j, j < u.ilen → u.dmem.read j = u.imem.read j ∧ u.imem.read j = s.imem.read j

/-! ### Whole-machine rules -/

/-- 60_exceptions.md R223: a command that ended in an error, issued again, ends in the same state with the same error, because an error entry
changes neither the command's inputs nor the valid bit it requires, and no valid bit but those of its output and of what comes after. -/
def Obligations.RetryFailsIdentically : Prop :=
  ∀ (i : Instr) (s t : State), exec i s = .next t → t.err ≠ .ok →
    exec i t = .next t ∧
    (i = .build → t.ft = s.ft ∧ t.ftn = s.ftn ∧ t.valid.ft = s.valid.ft ∧ t.valid.dec = s.valid.dec) ∧
    (i = .assign → t.node = s.node ∧ t.noden = s.noden ∧ t.root = s.root ∧ t.valid = s.valid) ∧
    (i = .pack → t.imem = s.imem ∧ t.ilen = s.ilen ∧ t.ct = s.ct ∧ t.ctn = s.ctn ∧ t.valid = { s.valid with out := t.valid.out }) ∧
    (i = .encode → t.imem = s.imem ∧ t.ilen = s.ilen) ∧
    (i = .decode → t.omem = s.omem ∧ t.olen = s.olen ∧ t.ct = s.ct ∧ t.ctn = s.ctn ∧
      t.valid = { s.valid with dec := t.valid.dec })

/-- Every step keeps the canonical form of all six memories (the model's own invariant: notes/assumptions/5.md). -/
def Obligations.StepKeepsCanonicalMemories : Prop :=
  ∀ s t : State, Canonical s → step s = .next t → Canonical t

/-- 42_code_assigner.md R151, 41_tree_builder.md R138: every step keeps: a valid `TREE` is a strictly binary tree with different leaf symbols. -/
def Obligations.StepKeepsTree : Prop :=
  ∀ s t : State, TreeInv s → step s = .next t → TreeInv t

/-- 10_state.md R42, 60_exceptions.md R210, R212: every step keeps: `V_TREE` implies `V_FT`, `V_OUT` implies `V_CT`, and `ERR` is not the code reserved
for the host. -/
def Obligations.StepKeepsChainAndErrorCode : Prop :=
  ∀ s t : State, ChainInv s → ErrInv s → step s = .next t → ChainInv t ∧ ErrInv t

/-- 43_bit_packer.md R176, 10_state.md R41: every step keeps: a valid `OUT` is a payload that agrees with `PAD`, `BITLEN` and `OLEN`, and a valid `DEC`
is written whole. -/
def Obligations.StepKeepsOutputs : Prop :=
  ∀ s t : State, OutputInv s → step s = .next t → OutputInv t

/-- 00_scope.md R8: every step keeps every register and every memory entry within the widths and depths of R8, for every instance with symbols of at
least one bit (notes/assumptions/16.md) and a tree in a valid `TREE`. -/
def Obligations.StepKeepsRanges : Prop :=
  ∀ s t : State, 1 ≤ s.par.symW → TreeInv s → InRange s → step s = .next t → InRange t

/-- 10_state.md R47: the reset state of every instance meets all the invariants. -/
def Obligations.ResetMeetsInvariants : Prop := ∀ p : Params, Good (State.resetOf p)

/-- 10_state.md R46, 00_scope.md R7: the parameters are not state: no step changes them. That they stand in the model's State is
notes/assumptions/1.md. -/
def Obligations.StepKeepsParameters : Prop :=
  ∀ s t : State, step s = .next t → t.par = s.par
end

