-- ==== Sys2Proof/Laws/State.lean ====
section
/-! SUPPORT. What each field of the state is after each named update: one lemma per field per update, so that no proof unfolds a
record update. -/

namespace Sys2Proof.Machine

/-! ### `putFT` -/

@[simp] theorem State.putFT_par (s : State) (table : List FtEntry) : (s.putFT table).par = s.par := rfl
@[simp] theorem State.putFT_cmd (s : State) (table : List FtEntry) : (s.putFT table).cmd = s.cmd := rfl
@[simp] theorem State.putFT_valid (s : State) (table : List FtEntry) : (s.putFT table).valid = s.valid.afterFT := rfl
@[simp] theorem State.putFT_err (s : State) (table : List FtEntry) : (s.putFT table).err = s.err := rfl
@[simp] theorem State.putFT_ilen (s : State) (table : List FtEntry) : (s.putFT table).ilen = s.ilen := rfl
@[simp] theorem State.putFT_ftn (s : State) (table : List FtEntry) : (s.putFT table).ftn = table.length := rfl
@[simp] theorem State.putFT_noden (s : State) (table : List FtEntry) : (s.putFT table).noden = s.noden := rfl
@[simp] theorem State.putFT_root (s : State) (table : List FtEntry) : (s.putFT table).root = s.root := rfl
@[simp] theorem State.putFT_ctn (s : State) (table : List FtEntry) : (s.putFT table).ctn = s.ctn := rfl
@[simp] theorem State.putFT_bitlen (s : State) (table : List FtEntry) : (s.putFT table).bitlen = s.bitlen := rfl
@[simp] theorem State.putFT_pad (s : State) (table : List FtEntry) : (s.putFT table).pad = s.pad := rfl
@[simp] theorem State.putFT_olen (s : State) (table : List FtEntry) : (s.putFT table).olen = s.olen := rfl
@[simp] theorem State.putFT_dlen (s : State) (table : List FtEntry) : (s.putFT table).dlen = s.dlen := rfl
@[simp] theorem State.putFT_imem (s : State) (table : List FtEntry) : (s.putFT table).imem = s.imem := rfl
@[simp] theorem State.putFT_ft (s : State) (table : List FtEntry) : (s.putFT table).ft = Memory.entriesFrom 0 table := rfl
@[simp] theorem State.putFT_node (s : State) (table : List FtEntry) : (s.putFT table).node = s.node := rfl
@[simp] theorem State.putFT_ct (s : State) (table : List FtEntry) : (s.putFT table).ct = s.ct := rfl
@[simp] theorem State.putFT_omem (s : State) (table : List FtEntry) : (s.putFT table).omem = s.omem := rfl
@[simp] theorem State.putFT_dmem (s : State) (table : List FtEntry) : (s.putFT table).dmem = s.dmem := rfl
@[simp] theorem State.putFT_script (s : State) (table : List FtEntry) : (s.putFT table).script = s.script := rfl
@[simp] theorem State.putFT_reads (s : State) (table : List FtEntry) : (s.putFT table).reads = s.reads := rfl
@[simp] theorem State.putFT_fresh (s : State) (table : List FtEntry) : (s.putFT table).fresh = s.fresh := rfl

/-! ### `putTREE` -/

@[simp] theorem State.putTREE_par (s : State) (nodes : List Node) (r : Nat) : (s.putTREE nodes r).par = s.par := rfl
@[simp] theorem State.putTREE_cmd (s : State) (nodes : List Node) (r : Nat) : (s.putTREE nodes r).cmd = s.cmd := rfl
@[simp] theorem State.putTREE_valid (s : State) (nodes : List Node) (r : Nat) : (s.putTREE nodes r).valid = s.valid.afterTREE := rfl
@[simp] theorem State.putTREE_err (s : State) (nodes : List Node) (r : Nat) : (s.putTREE nodes r).err = s.err := rfl
@[simp] theorem State.putTREE_ilen (s : State) (nodes : List Node) (r : Nat) : (s.putTREE nodes r).ilen = s.ilen := rfl
@[simp] theorem State.putTREE_ftn (s : State) (nodes : List Node) (r : Nat) : (s.putTREE nodes r).ftn = s.ftn := rfl
@[simp] theorem State.putTREE_noden (s : State) (nodes : List Node) (r : Nat) : (s.putTREE nodes r).noden = nodes.length := rfl
@[simp] theorem State.putTREE_root (s : State) (nodes : List Node) (r : Nat) : (s.putTREE nodes r).root = r := rfl
@[simp] theorem State.putTREE_ctn (s : State) (nodes : List Node) (r : Nat) : (s.putTREE nodes r).ctn = s.ctn := rfl
@[simp] theorem State.putTREE_bitlen (s : State) (nodes : List Node) (r : Nat) : (s.putTREE nodes r).bitlen = s.bitlen := rfl
@[simp] theorem State.putTREE_pad (s : State) (nodes : List Node) (r : Nat) : (s.putTREE nodes r).pad = s.pad := rfl
@[simp] theorem State.putTREE_olen (s : State) (nodes : List Node) (r : Nat) : (s.putTREE nodes r).olen = s.olen := rfl
@[simp] theorem State.putTREE_dlen (s : State) (nodes : List Node) (r : Nat) : (s.putTREE nodes r).dlen = s.dlen := rfl
@[simp] theorem State.putTREE_imem (s : State) (nodes : List Node) (r : Nat) : (s.putTREE nodes r).imem = s.imem := rfl
@[simp] theorem State.putTREE_ft (s : State) (nodes : List Node) (r : Nat) : (s.putTREE nodes r).ft = s.ft := rfl
@[simp] theorem State.putTREE_node (s : State) (nodes : List Node) (r : Nat) : (s.putTREE nodes r).node = Memory.entriesFrom 0 nodes := rfl
@[simp] theorem State.putTREE_ct (s : State) (nodes : List Node) (r : Nat) : (s.putTREE nodes r).ct = s.ct := rfl
@[simp] theorem State.putTREE_omem (s : State) (nodes : List Node) (r : Nat) : (s.putTREE nodes r).omem = s.omem := rfl
@[simp] theorem State.putTREE_dmem (s : State) (nodes : List Node) (r : Nat) : (s.putTREE nodes r).dmem = s.dmem := rfl
@[simp] theorem State.putTREE_script (s : State) (nodes : List Node) (r : Nat) : (s.putTREE nodes r).script = s.script := rfl
@[simp] theorem State.putTREE_reads (s : State) (nodes : List Node) (r : Nat) : (s.putTREE nodes r).reads = s.reads := rfl
@[simp] theorem State.putTREE_fresh (s : State) (nodes : List Node) (r : Nat) : (s.putTREE nodes r).fresh = s.fresh := rfl

/-! ### `putCT` -/

@[simp] theorem State.putCT_par (s : State) (entries : List (Nat × CtEntry)) (n : Nat) : (s.putCT entries n).par = s.par := rfl
@[simp] theorem State.putCT_cmd (s : State) (entries : List (Nat × CtEntry)) (n : Nat) : (s.putCT entries n).cmd = s.cmd := rfl
@[simp] theorem State.putCT_valid (s : State) (entries : List (Nat × CtEntry)) (n : Nat) : (s.putCT entries n).valid = s.valid.afterCT := rfl
@[simp] theorem State.putCT_err (s : State) (entries : List (Nat × CtEntry)) (n : Nat) : (s.putCT entries n).err = s.err := rfl
@[simp] theorem State.putCT_ilen (s : State) (entries : List (Nat × CtEntry)) (n : Nat) : (s.putCT entries n).ilen = s.ilen := rfl
@[simp] theorem State.putCT_ftn (s : State) (entries : List (Nat × CtEntry)) (n : Nat) : (s.putCT entries n).ftn = s.ftn := rfl
@[simp] theorem State.putCT_noden (s : State) (entries : List (Nat × CtEntry)) (n : Nat) : (s.putCT entries n).noden = s.noden := rfl
@[simp] theorem State.putCT_root (s : State) (entries : List (Nat × CtEntry)) (n : Nat) : (s.putCT entries n).root = s.root := rfl
@[simp] theorem State.putCT_ctn (s : State) (entries : List (Nat × CtEntry)) (n : Nat) : (s.putCT entries n).ctn = n := rfl
@[simp] theorem State.putCT_bitlen (s : State) (entries : List (Nat × CtEntry)) (n : Nat) : (s.putCT entries n).bitlen = s.bitlen := rfl
@[simp] theorem State.putCT_pad (s : State) (entries : List (Nat × CtEntry)) (n : Nat) : (s.putCT entries n).pad = s.pad := rfl
@[simp] theorem State.putCT_olen (s : State) (entries : List (Nat × CtEntry)) (n : Nat) : (s.putCT entries n).olen = s.olen := rfl
@[simp] theorem State.putCT_dlen (s : State) (entries : List (Nat × CtEntry)) (n : Nat) : (s.putCT entries n).dlen = s.dlen := rfl
@[simp] theorem State.putCT_imem (s : State) (entries : List (Nat × CtEntry)) (n : Nat) : (s.putCT entries n).imem = s.imem := rfl
@[simp] theorem State.putCT_ft (s : State) (entries : List (Nat × CtEntry)) (n : Nat) : (s.putCT entries n).ft = s.ft := rfl
@[simp] theorem State.putCT_node (s : State) (entries : List (Nat × CtEntry)) (n : Nat) : (s.putCT entries n).node = s.node := rfl
@[simp] theorem State.putCT_ct (s : State) (entries : List (Nat × CtEntry)) (n : Nat) : (s.putCT entries n).ct = Memory.writeAll [] entries := rfl
@[simp] theorem State.putCT_omem (s : State) (entries : List (Nat × CtEntry)) (n : Nat) : (s.putCT entries n).omem = s.omem := rfl
@[simp] theorem State.putCT_dmem (s : State) (entries : List (Nat × CtEntry)) (n : Nat) : (s.putCT entries n).dmem = s.dmem := rfl
@[simp] theorem State.putCT_script (s : State) (entries : List (Nat × CtEntry)) (n : Nat) : (s.putCT entries n).script = s.script := rfl
@[simp] theorem State.putCT_reads (s : State) (entries : List (Nat × CtEntry)) (n : Nat) : (s.putCT entries n).reads = s.reads := rfl
@[simp] theorem State.putCT_fresh (s : State) (entries : List (Nat × CtEntry)) (n : Nat) : (s.putCT entries n).fresh = s.fresh := rfl

/-! ### `putOUT` -/

@[simp] theorem State.putOUT_par (s : State) (packed : List Byte) (l p : Nat) : (s.putOUT packed l p).par = s.par := rfl
@[simp] theorem State.putOUT_cmd (s : State) (packed : List Byte) (l p : Nat) : (s.putOUT packed l p).cmd = s.cmd := rfl
@[simp] theorem State.putOUT_valid (s : State) (packed : List Byte) (l p : Nat) : (s.putOUT packed l p).valid = s.valid.afterOUT := rfl
@[simp] theorem State.putOUT_err (s : State) (packed : List Byte) (l p : Nat) : (s.putOUT packed l p).err = s.err := rfl
@[simp] theorem State.putOUT_ilen (s : State) (packed : List Byte) (l p : Nat) : (s.putOUT packed l p).ilen = s.ilen := rfl
@[simp] theorem State.putOUT_ftn (s : State) (packed : List Byte) (l p : Nat) : (s.putOUT packed l p).ftn = s.ftn := rfl
@[simp] theorem State.putOUT_noden (s : State) (packed : List Byte) (l p : Nat) : (s.putOUT packed l p).noden = s.noden := rfl
@[simp] theorem State.putOUT_root (s : State) (packed : List Byte) (l p : Nat) : (s.putOUT packed l p).root = s.root := rfl
@[simp] theorem State.putOUT_ctn (s : State) (packed : List Byte) (l p : Nat) : (s.putOUT packed l p).ctn = s.ctn := rfl
@[simp] theorem State.putOUT_bitlen (s : State) (packed : List Byte) (l p : Nat) : (s.putOUT packed l p).bitlen = l := rfl
@[simp] theorem State.putOUT_pad (s : State) (packed : List Byte) (l p : Nat) : (s.putOUT packed l p).pad = p := rfl
@[simp] theorem State.putOUT_olen (s : State) (packed : List Byte) (l p : Nat) : (s.putOUT packed l p).olen = 1 + packed.length := rfl
@[simp] theorem State.putOUT_dlen (s : State) (packed : List Byte) (l p : Nat) : (s.putOUT packed l p).dlen = s.dlen := rfl
@[simp] theorem State.putOUT_imem (s : State) (packed : List Byte) (l p : Nat) : (s.putOUT packed l p).imem = s.imem := rfl
@[simp] theorem State.putOUT_ft (s : State) (packed : List Byte) (l p : Nat) : (s.putOUT packed l p).ft = s.ft := rfl
@[simp] theorem State.putOUT_node (s : State) (packed : List Byte) (l p : Nat) : (s.putOUT packed l p).node = s.node := rfl
@[simp] theorem State.putOUT_ct (s : State) (packed : List Byte) (l p : Nat) : (s.putOUT packed l p).ct = s.ct := rfl
@[simp] theorem State.putOUT_omem (s : State) (packed : List Byte) (l p : Nat) : (s.putOUT packed l p).omem = Memory.writeFrom s.omem 0 (BitVec.ofNat 8 p :: packed) := rfl
@[simp] theorem State.putOUT_dmem (s : State) (packed : List Byte) (l p : Nat) : (s.putOUT packed l p).dmem = s.dmem := rfl
@[simp] theorem State.putOUT_script (s : State) (packed : List Byte) (l p : Nat) : (s.putOUT packed l p).script = s.script := rfl
@[simp] theorem State.putOUT_reads (s : State) (packed : List Byte) (l p : Nat) : (s.putOUT packed l p).reads = s.reads := rfl
@[simp] theorem State.putOUT_fresh (s : State) (packed : List Byte) (l p : Nat) : (s.putOUT packed l p).fresh = s.fresh := rfl

/-! ### `putDEC` -/

@[simp] theorem State.putDEC_par (s : State) (syms : List Sym) : (s.putDEC syms).par = s.par := rfl
@[simp] theorem State.putDEC_cmd (s : State) (syms : List Sym) : (s.putDEC syms).cmd = s.cmd := rfl
@[simp] theorem State.putDEC_valid (s : State) (syms : List Sym) : (s.putDEC syms).valid = s.valid.afterDEC := rfl
@[simp] theorem State.putDEC_err (s : State) (syms : List Sym) : (s.putDEC syms).err = s.err := rfl
@[simp] theorem State.putDEC_ilen (s : State) (syms : List Sym) : (s.putDEC syms).ilen = s.ilen := rfl
@[simp] theorem State.putDEC_ftn (s : State) (syms : List Sym) : (s.putDEC syms).ftn = s.ftn := rfl
@[simp] theorem State.putDEC_noden (s : State) (syms : List Sym) : (s.putDEC syms).noden = s.noden := rfl
@[simp] theorem State.putDEC_root (s : State) (syms : List Sym) : (s.putDEC syms).root = s.root := rfl
@[simp] theorem State.putDEC_ctn (s : State) (syms : List Sym) : (s.putDEC syms).ctn = s.ctn := rfl
@[simp] theorem State.putDEC_bitlen (s : State) (syms : List Sym) : (s.putDEC syms).bitlen = s.bitlen := rfl
@[simp] theorem State.putDEC_pad (s : State) (syms : List Sym) : (s.putDEC syms).pad = s.pad := rfl
@[simp] theorem State.putDEC_olen (s : State) (syms : List Sym) : (s.putDEC syms).olen = s.olen := rfl
@[simp] theorem State.putDEC_dlen (s : State) (syms : List Sym) : (s.putDEC syms).dlen = syms.length := rfl
@[simp] theorem State.putDEC_imem (s : State) (syms : List Sym) : (s.putDEC syms).imem = s.imem := rfl
@[simp] theorem State.putDEC_ft (s : State) (syms : List Sym) : (s.putDEC syms).ft = s.ft := rfl
@[simp] theorem State.putDEC_node (s : State) (syms : List Sym) : (s.putDEC syms).node = s.node := rfl
@[simp] theorem State.putDEC_ct (s : State) (syms : List Sym) : (s.putDEC syms).ct = s.ct := rfl
@[simp] theorem State.putDEC_omem (s : State) (syms : List Sym) : (s.putDEC syms).omem = s.omem := rfl
@[simp] theorem State.putDEC_dmem (s : State) (syms : List Sym) : (s.putDEC syms).dmem = Memory.entriesFrom 0 syms := rfl
@[simp] theorem State.putDEC_script (s : State) (syms : List Sym) : (s.putDEC syms).script = s.script := rfl
@[simp] theorem State.putDEC_reads (s : State) (syms : List Sym) : (s.putDEC syms).reads = s.reads := rfl
@[simp] theorem State.putDEC_fresh (s : State) (syms : List Sym) : (s.putDEC syms).fresh = s.fresh := rfl

/-! ### `derivedClear` -/

@[simp] theorem State.derivedClear_par (s : State) : (s.derivedClear).par = s.par := rfl
@[simp] theorem State.derivedClear_cmd (s : State) : (s.derivedClear).cmd = s.cmd := rfl
@[simp] theorem State.derivedClear_valid (s : State) : (s.derivedClear).valid = Valid.none := rfl
@[simp] theorem State.derivedClear_err (s : State) : (s.derivedClear).err = s.err := rfl
@[simp] theorem State.derivedClear_ilen (s : State) : (s.derivedClear).ilen = s.ilen := rfl
@[simp] theorem State.derivedClear_ftn (s : State) : (s.derivedClear).ftn = 0 := rfl
@[simp] theorem State.derivedClear_noden (s : State) : (s.derivedClear).noden = 0 := rfl
@[simp] theorem State.derivedClear_root (s : State) : (s.derivedClear).root = 0 := rfl
@[simp] theorem State.derivedClear_ctn (s : State) : (s.derivedClear).ctn = 0 := rfl
@[simp] theorem State.derivedClear_bitlen (s : State) : (s.derivedClear).bitlen = 0 := rfl
@[simp] theorem State.derivedClear_pad (s : State) : (s.derivedClear).pad = 0 := rfl
@[simp] theorem State.derivedClear_olen (s : State) : (s.derivedClear).olen = 0 := rfl
@[simp] theorem State.derivedClear_dlen (s : State) : (s.derivedClear).dlen = 0 := rfl
@[simp] theorem State.derivedClear_imem (s : State) : (s.derivedClear).imem = s.imem := rfl
@[simp] theorem State.derivedClear_ft (s : State) : (s.derivedClear).ft = s.ft := rfl
@[simp] theorem State.derivedClear_node (s : State) : (s.derivedClear).node = s.node := rfl
@[simp] theorem State.derivedClear_ct (s : State) : (s.derivedClear).ct = s.ct := rfl
@[simp] theorem State.derivedClear_omem (s : State) : (s.derivedClear).omem = s.omem := rfl
@[simp] theorem State.derivedClear_dmem (s : State) : (s.derivedClear).dmem = s.dmem := rfl
@[simp] theorem State.derivedClear_script (s : State) : (s.derivedClear).script = s.script := rfl
@[simp] theorem State.derivedClear_reads (s : State) : (s.derivedClear).reads = s.reads := rfl
@[simp] theorem State.derivedClear_fresh (s : State) : (s.derivedClear).fresh = s.fresh := rfl

/-! ### `setErr` -/

@[simp] theorem State.setErr_par (s : State) (e : ErrCode) : (s.setErr e).par = s.par := rfl
@[simp] theorem State.setErr_cmd (s : State) (e : ErrCode) : (s.setErr e).cmd = s.cmd := rfl
@[simp] theorem State.setErr_valid (s : State) (e : ErrCode) : (s.setErr e).valid = s.valid := rfl
@[simp] theorem State.setErr_err (s : State) (e : ErrCode) : (s.setErr e).err = e := rfl
@[simp] theorem State.setErr_ilen (s : State) (e : ErrCode) : (s.setErr e).ilen = s.ilen := rfl
@[simp] theorem State.setErr_ftn (s : State) (e : ErrCode) : (s.setErr e).ftn = s.ftn := rfl
@[simp] theorem State.setErr_noden (s : State) (e : ErrCode) : (s.setErr e).noden = s.noden := rfl
@[simp] theorem State.setErr_root (s : State) (e : ErrCode) : (s.setErr e).root = s.root := rfl
@[simp] theorem State.setErr_ctn (s : State) (e : ErrCode) : (s.setErr e).ctn = s.ctn := rfl
@[simp] theorem State.setErr_bitlen (s : State) (e : ErrCode) : (s.setErr e).bitlen = s.bitlen := rfl
@[simp] theorem State.setErr_pad (s : State) (e : ErrCode) : (s.setErr e).pad = s.pad := rfl
@[simp] theorem State.setErr_olen (s : State) (e : ErrCode) : (s.setErr e).olen = s.olen := rfl
@[simp] theorem State.setErr_dlen (s : State) (e : ErrCode) : (s.setErr e).dlen = s.dlen := rfl
@[simp] theorem State.setErr_imem (s : State) (e : ErrCode) : (s.setErr e).imem = s.imem := rfl
@[simp] theorem State.setErr_ft (s : State) (e : ErrCode) : (s.setErr e).ft = s.ft := rfl
@[simp] theorem State.setErr_node (s : State) (e : ErrCode) : (s.setErr e).node = s.node := rfl
@[simp] theorem State.setErr_ct (s : State) (e : ErrCode) : (s.setErr e).ct = s.ct := rfl
@[simp] theorem State.setErr_omem (s : State) (e : ErrCode) : (s.setErr e).omem = s.omem := rfl
@[simp] theorem State.setErr_dmem (s : State) (e : ErrCode) : (s.setErr e).dmem = s.dmem := rfl
@[simp] theorem State.setErr_script (s : State) (e : ErrCode) : (s.setErr e).script = s.script := rfl
@[simp] theorem State.setErr_reads (s : State) (e : ErrCode) : (s.setErr e).reads = s.reads := rfl
@[simp] theorem State.setErr_fresh (s : State) (e : ErrCode) : (s.setErr e).fresh = s.fresh := rfl

/-! ### `goIdle` -/

@[simp] theorem State.goIdle_par (s : State) : (s.goIdle).par = s.par := rfl
@[simp] theorem State.goIdle_cmd (s : State) : (s.goIdle).cmd = none := rfl
@[simp] theorem State.goIdle_valid (s : State) : (s.goIdle).valid = s.valid := rfl
@[simp] theorem State.goIdle_err (s : State) : (s.goIdle).err = s.err := rfl
@[simp] theorem State.goIdle_ilen (s : State) : (s.goIdle).ilen = s.ilen := rfl
@[simp] theorem State.goIdle_ftn (s : State) : (s.goIdle).ftn = s.ftn := rfl
@[simp] theorem State.goIdle_noden (s : State) : (s.goIdle).noden = s.noden := rfl
@[simp] theorem State.goIdle_root (s : State) : (s.goIdle).root = s.root := rfl
@[simp] theorem State.goIdle_ctn (s : State) : (s.goIdle).ctn = s.ctn := rfl
@[simp] theorem State.goIdle_bitlen (s : State) : (s.goIdle).bitlen = s.bitlen := rfl
@[simp] theorem State.goIdle_pad (s : State) : (s.goIdle).pad = s.pad := rfl
@[simp] theorem State.goIdle_olen (s : State) : (s.goIdle).olen = s.olen := rfl
@[simp] theorem State.goIdle_dlen (s : State) : (s.goIdle).dlen = s.dlen := rfl
@[simp] theorem State.goIdle_imem (s : State) : (s.goIdle).imem = s.imem := rfl
@[simp] theorem State.goIdle_ft (s : State) : (s.goIdle).ft = s.ft := rfl
@[simp] theorem State.goIdle_node (s : State) : (s.goIdle).node = s.node := rfl
@[simp] theorem State.goIdle_ct (s : State) : (s.goIdle).ct = s.ct := rfl
@[simp] theorem State.goIdle_omem (s : State) : (s.goIdle).omem = s.omem := rfl
@[simp] theorem State.goIdle_dmem (s : State) : (s.goIdle).dmem = s.dmem := rfl
@[simp] theorem State.goIdle_script (s : State) : (s.goIdle).script = s.script := rfl
@[simp] theorem State.goIdle_reads (s : State) : (s.goIdle).reads = s.reads := rfl
@[simp] theorem State.goIdle_fresh (s : State) : (s.goIdle).fresh = s.fresh := rfl

/-! ### `loseOUT` -/

@[simp] theorem State.loseOUT_par (s : State) : (s.loseOUT).par = s.par := rfl
@[simp] theorem State.loseOUT_cmd (s : State) : (s.loseOUT).cmd = s.cmd := rfl
@[simp] theorem State.loseOUT_valid (s : State) : (s.loseOUT).valid = s.valid.loseOUT := rfl
@[simp] theorem State.loseOUT_err (s : State) : (s.loseOUT).err = s.err := rfl
@[simp] theorem State.loseOUT_ilen (s : State) : (s.loseOUT).ilen = s.ilen := rfl
@[simp] theorem State.loseOUT_ftn (s : State) : (s.loseOUT).ftn = s.ftn := rfl
@[simp] theorem State.loseOUT_noden (s : State) : (s.loseOUT).noden = s.noden := rfl
@[simp] theorem State.loseOUT_root (s : State) : (s.loseOUT).root = s.root := rfl
@[simp] theorem State.loseOUT_ctn (s : State) : (s.loseOUT).ctn = s.ctn := rfl
@[simp] theorem State.loseOUT_bitlen (s : State) : (s.loseOUT).bitlen = 0 := rfl
@[simp] theorem State.loseOUT_pad (s : State) : (s.loseOUT).pad = 0 := rfl
@[simp] theorem State.loseOUT_olen (s : State) : (s.loseOUT).olen = 0 := rfl
@[simp] theorem State.loseOUT_dlen (s : State) : (s.loseOUT).dlen = s.dlen := rfl
@[simp] theorem State.loseOUT_imem (s : State) : (s.loseOUT).imem = s.imem := rfl
@[simp] theorem State.loseOUT_ft (s : State) : (s.loseOUT).ft = s.ft := rfl
@[simp] theorem State.loseOUT_node (s : State) : (s.loseOUT).node = s.node := rfl
@[simp] theorem State.loseOUT_ct (s : State) : (s.loseOUT).ct = s.ct := rfl
@[simp] theorem State.loseOUT_omem (s : State) : (s.loseOUT).omem = [] := rfl
@[simp] theorem State.loseOUT_dmem (s : State) : (s.loseOUT).dmem = s.dmem := rfl
@[simp] theorem State.loseOUT_script (s : State) : (s.loseOUT).script = s.script := rfl
@[simp] theorem State.loseOUT_reads (s : State) : (s.loseOUT).reads = s.reads := rfl
@[simp] theorem State.loseOUT_fresh (s : State) : (s.loseOUT).fresh = s.fresh := rfl

/-! ### `loseDEC` -/

@[simp] theorem State.loseDEC_par (s : State) : (s.loseDEC).par = s.par := rfl
@[simp] theorem State.loseDEC_cmd (s : State) : (s.loseDEC).cmd = s.cmd := rfl
@[simp] theorem State.loseDEC_valid (s : State) : (s.loseDEC).valid = s.valid.loseDEC := rfl
@[simp] theorem State.loseDEC_err (s : State) : (s.loseDEC).err = s.err := rfl
@[simp] theorem State.loseDEC_ilen (s : State) : (s.loseDEC).ilen = s.ilen := rfl
@[simp] theorem State.loseDEC_ftn (s : State) : (s.loseDEC).ftn = s.ftn := rfl
@[simp] theorem State.loseDEC_noden (s : State) : (s.loseDEC).noden = s.noden := rfl
@[simp] theorem State.loseDEC_root (s : State) : (s.loseDEC).root = s.root := rfl
@[simp] theorem State.loseDEC_ctn (s : State) : (s.loseDEC).ctn = s.ctn := rfl
@[simp] theorem State.loseDEC_bitlen (s : State) : (s.loseDEC).bitlen = s.bitlen := rfl
@[simp] theorem State.loseDEC_pad (s : State) : (s.loseDEC).pad = s.pad := rfl
@[simp] theorem State.loseDEC_olen (s : State) : (s.loseDEC).olen = s.olen := rfl
@[simp] theorem State.loseDEC_dlen (s : State) : (s.loseDEC).dlen = 0 := rfl
@[simp] theorem State.loseDEC_imem (s : State) : (s.loseDEC).imem = s.imem := rfl
@[simp] theorem State.loseDEC_ft (s : State) : (s.loseDEC).ft = s.ft := rfl
@[simp] theorem State.loseDEC_node (s : State) : (s.loseDEC).node = s.node := rfl
@[simp] theorem State.loseDEC_ct (s : State) : (s.loseDEC).ct = s.ct := rfl
@[simp] theorem State.loseDEC_omem (s : State) : (s.loseDEC).omem = s.omem := rfl
@[simp] theorem State.loseDEC_dmem (s : State) : (s.loseDEC).dmem = [] := rfl
@[simp] theorem State.loseDEC_script (s : State) : (s.loseDEC).script = s.script := rfl
@[simp] theorem State.loseDEC_reads (s : State) : (s.loseDEC).reads = s.reads := rfl
@[simp] theorem State.loseDEC_fresh (s : State) : (s.loseDEC).fresh = s.fresh := rfl

/-! ### `loseTREE` -/

@[simp] theorem State.loseTREE_par (s : State) : (s.loseTREE).par = s.par := rfl
@[simp] theorem State.loseTREE_cmd (s : State) : (s.loseTREE).cmd = s.cmd := rfl
@[simp] theorem State.loseTREE_valid (s : State) : (s.loseTREE).valid = s.valid.loseTREE := rfl
@[simp] theorem State.loseTREE_err (s : State) : (s.loseTREE).err = s.err := rfl
@[simp] theorem State.loseTREE_ilen (s : State) : (s.loseTREE).ilen = s.ilen := rfl
@[simp] theorem State.loseTREE_ftn (s : State) : (s.loseTREE).ftn = s.ftn := rfl
@[simp] theorem State.loseTREE_noden (s : State) : (s.loseTREE).noden = s.noden := rfl
@[simp] theorem State.loseTREE_root (s : State) : (s.loseTREE).root = s.root := rfl
@[simp] theorem State.loseTREE_ctn (s : State) : (s.loseTREE).ctn = s.ctn := rfl
@[simp] theorem State.loseTREE_bitlen (s : State) : (s.loseTREE).bitlen = s.bitlen := rfl
@[simp] theorem State.loseTREE_pad (s : State) : (s.loseTREE).pad = s.pad := rfl
@[simp] theorem State.loseTREE_olen (s : State) : (s.loseTREE).olen = s.olen := rfl
@[simp] theorem State.loseTREE_dlen (s : State) : (s.loseTREE).dlen = s.dlen := rfl
@[simp] theorem State.loseTREE_imem (s : State) : (s.loseTREE).imem = s.imem := rfl
@[simp] theorem State.loseTREE_ft (s : State) : (s.loseTREE).ft = s.ft := rfl
@[simp] theorem State.loseTREE_node (s : State) : (s.loseTREE).node = s.node := rfl
@[simp] theorem State.loseTREE_ct (s : State) : (s.loseTREE).ct = s.ct := rfl
@[simp] theorem State.loseTREE_omem (s : State) : (s.loseTREE).omem = s.omem := rfl
@[simp] theorem State.loseTREE_dmem (s : State) : (s.loseTREE).dmem = s.dmem := rfl
@[simp] theorem State.loseTREE_script (s : State) : (s.loseTREE).script = s.script := rfl
@[simp] theorem State.loseTREE_reads (s : State) : (s.loseTREE).reads = s.reads := rfl
@[simp] theorem State.loseTREE_fresh (s : State) : (s.loseTREE).fresh = s.fresh := rfl

/-! ### `returnRead` -/

@[simp] theorem State.returnRead_par (s : State) (v : Nat) : (s.returnRead v).par = s.par := rfl
@[simp] theorem State.returnRead_cmd (s : State) (v : Nat) : (s.returnRead v).cmd = s.cmd := rfl
@[simp] theorem State.returnRead_valid (s : State) (v : Nat) : (s.returnRead v).valid = s.valid := rfl
@[simp] theorem State.returnRead_err (s : State) (v : Nat) : (s.returnRead v).err = s.err := rfl
@[simp] theorem State.returnRead_ilen (s : State) (v : Nat) : (s.returnRead v).ilen = s.ilen := rfl
@[simp] theorem State.returnRead_ftn (s : State) (v : Nat) : (s.returnRead v).ftn = s.ftn := rfl
@[simp] theorem State.returnRead_noden (s : State) (v : Nat) : (s.returnRead v).noden = s.noden := rfl
@[simp] theorem State.returnRead_root (s : State) (v : Nat) : (s.returnRead v).root = s.root := rfl
@[simp] theorem State.returnRead_ctn (s : State) (v : Nat) : (s.returnRead v).ctn = s.ctn := rfl
@[simp] theorem State.returnRead_bitlen (s : State) (v : Nat) : (s.returnRead v).bitlen = s.bitlen := rfl
@[simp] theorem State.returnRead_pad (s : State) (v : Nat) : (s.returnRead v).pad = s.pad := rfl
@[simp] theorem State.returnRead_olen (s : State) (v : Nat) : (s.returnRead v).olen = s.olen := rfl
@[simp] theorem State.returnRead_dlen (s : State) (v : Nat) : (s.returnRead v).dlen = s.dlen := rfl
@[simp] theorem State.returnRead_imem (s : State) (v : Nat) : (s.returnRead v).imem = s.imem := rfl
@[simp] theorem State.returnRead_ft (s : State) (v : Nat) : (s.returnRead v).ft = s.ft := rfl
@[simp] theorem State.returnRead_node (s : State) (v : Nat) : (s.returnRead v).node = s.node := rfl
@[simp] theorem State.returnRead_ct (s : State) (v : Nat) : (s.returnRead v).ct = s.ct := rfl
@[simp] theorem State.returnRead_omem (s : State) (v : Nat) : (s.returnRead v).omem = s.omem := rfl
@[simp] theorem State.returnRead_dmem (s : State) (v : Nat) : (s.returnRead v).dmem = s.dmem := rfl
@[simp] theorem State.returnRead_script (s : State) (v : Nat) : (s.returnRead v).script = s.script := rfl
@[simp] theorem State.returnRead_reads (s : State) (v : Nat) : (s.returnRead v).reads = s.reads ++ [v] := rfl
@[simp] theorem State.returnRead_fresh (s : State) (v : Nat) : (s.returnRead v).fresh = s.fresh := rfl

/-! ### `drawTwo` -/

@[simp] theorem State.drawTwo_par (s : State) : (s.drawTwo).par = s.par := rfl
@[simp] theorem State.drawTwo_cmd (s : State) : (s.drawTwo).cmd = s.cmd := rfl
@[simp] theorem State.drawTwo_valid (s : State) : (s.drawTwo).valid = s.valid := rfl
@[simp] theorem State.drawTwo_err (s : State) : (s.drawTwo).err = s.err := rfl
@[simp] theorem State.drawTwo_ilen (s : State) : (s.drawTwo).ilen = s.ilen := rfl
@[simp] theorem State.drawTwo_ftn (s : State) : (s.drawTwo).ftn = s.ftn := rfl
@[simp] theorem State.drawTwo_noden (s : State) : (s.drawTwo).noden = s.noden := rfl
@[simp] theorem State.drawTwo_root (s : State) : (s.drawTwo).root = s.root := rfl
@[simp] theorem State.drawTwo_ctn (s : State) : (s.drawTwo).ctn = s.ctn := rfl
@[simp] theorem State.drawTwo_bitlen (s : State) : (s.drawTwo).bitlen = s.bitlen := rfl
@[simp] theorem State.drawTwo_pad (s : State) : (s.drawTwo).pad = s.pad := rfl
@[simp] theorem State.drawTwo_olen (s : State) : (s.drawTwo).olen = s.olen := rfl
@[simp] theorem State.drawTwo_dlen (s : State) : (s.drawTwo).dlen = s.dlen := rfl
@[simp] theorem State.drawTwo_imem (s : State) : (s.drawTwo).imem = s.imem := rfl
@[simp] theorem State.drawTwo_ft (s : State) : (s.drawTwo).ft = s.ft := rfl
@[simp] theorem State.drawTwo_node (s : State) : (s.drawTwo).node = s.node := rfl
@[simp] theorem State.drawTwo_ct (s : State) : (s.drawTwo).ct = s.ct := rfl
@[simp] theorem State.drawTwo_omem (s : State) : (s.drawTwo).omem = s.omem := rfl
@[simp] theorem State.drawTwo_dmem (s : State) : (s.drawTwo).dmem = s.dmem := rfl
@[simp] theorem State.drawTwo_script (s : State) : (s.drawTwo).script = s.script := rfl
@[simp] theorem State.drawTwo_reads (s : State) : (s.drawTwo).reads = s.reads := rfl
@[simp] theorem State.drawTwo_fresh (s : State) : (s.drawTwo).fresh = s.fresh + 2 := rfl

/-! ### `withScript` -/

@[simp] theorem State.withScript_par (s : State) (rest : List HostAccess) : (s.withScript rest).par = s.par := rfl
@[simp] theorem State.withScript_cmd (s : State) (rest : List HostAccess) : (s.withScript rest).cmd = s.cmd := rfl
@[simp] theorem State.withScript_valid (s : State) (rest : List HostAccess) : (s.withScript rest).valid = s.valid := rfl
@[simp] theorem State.withScript_err (s : State) (rest : List HostAccess) : (s.withScript rest).err = s.err := rfl
@[simp] theorem State.withScript_ilen (s : State) (rest : List HostAccess) : (s.withScript rest).ilen = s.ilen := rfl
@[simp] theorem State.withScript_ftn (s : State) (rest : List HostAccess) : (s.withScript rest).ftn = s.ftn := rfl
@[simp] theorem State.withScript_noden (s : State) (rest : List HostAccess) : (s.withScript rest).noden = s.noden := rfl
@[simp] theorem State.withScript_root (s : State) (rest : List HostAccess) : (s.withScript rest).root = s.root := rfl
@[simp] theorem State.withScript_ctn (s : State) (rest : List HostAccess) : (s.withScript rest).ctn = s.ctn := rfl
@[simp] theorem State.withScript_bitlen (s : State) (rest : List HostAccess) : (s.withScript rest).bitlen = s.bitlen := rfl
@[simp] theorem State.withScript_pad (s : State) (rest : List HostAccess) : (s.withScript rest).pad = s.pad := rfl
@[simp] theorem State.withScript_olen (s : State) (rest : List HostAccess) : (s.withScript rest).olen = s.olen := rfl
@[simp] theorem State.withScript_dlen (s : State) (rest : List HostAccess) : (s.withScript rest).dlen = s.dlen := rfl
@[simp] theorem State.withScript_imem (s : State) (rest : List HostAccess) : (s.withScript rest).imem = s.imem := rfl
@[simp] theorem State.withScript_ft (s : State) (rest : List HostAccess) : (s.withScript rest).ft = s.ft := rfl
@[simp] theorem State.withScript_node (s : State) (rest : List HostAccess) : (s.withScript rest).node = s.node := rfl
@[simp] theorem State.withScript_ct (s : State) (rest : List HostAccess) : (s.withScript rest).ct = s.ct := rfl
@[simp] theorem State.withScript_omem (s : State) (rest : List HostAccess) : (s.withScript rest).omem = s.omem := rfl
@[simp] theorem State.withScript_dmem (s : State) (rest : List HostAccess) : (s.withScript rest).dmem = s.dmem := rfl
@[simp] theorem State.withScript_script (s : State) (rest : List HostAccess) : (s.withScript rest).script = rest := rfl
@[simp] theorem State.withScript_reads (s : State) (rest : List HostAccess) : (s.withScript rest).reads = s.reads := rfl
@[simp] theorem State.withScript_fresh (s : State) (rest : List HostAccess) : (s.withScript rest).fresh = s.fresh := rfl

/-! ### `startCommand` -/

@[simp] theorem State.startCommand_par (s : State) (w : Byte) : (s.startCommand w).par = s.par := rfl
@[simp] theorem State.startCommand_cmd (s : State) (w : Byte) : (s.startCommand w).cmd = some w := rfl
@[simp] theorem State.startCommand_valid (s : State) (w : Byte) : (s.startCommand w).valid = s.valid := rfl
@[simp] theorem State.startCommand_err (s : State) (w : Byte) : (s.startCommand w).err = s.err := rfl
@[simp] theorem State.startCommand_ilen (s : State) (w : Byte) : (s.startCommand w).ilen = s.ilen := rfl
@[simp] theorem State.startCommand_ftn (s : State) (w : Byte) : (s.startCommand w).ftn = s.ftn := rfl
@[simp] theorem State.startCommand_noden (s : State) (w : Byte) : (s.startCommand w).noden = s.noden := rfl
@[simp] theorem State.startCommand_root (s : State) (w : Byte) : (s.startCommand w).root = s.root := rfl
@[simp] theorem State.startCommand_ctn (s : State) (w : Byte) : (s.startCommand w).ctn = s.ctn := rfl
@[simp] theorem State.startCommand_bitlen (s : State) (w : Byte) : (s.startCommand w).bitlen = s.bitlen := rfl
@[simp] theorem State.startCommand_pad (s : State) (w : Byte) : (s.startCommand w).pad = s.pad := rfl
@[simp] theorem State.startCommand_olen (s : State) (w : Byte) : (s.startCommand w).olen = s.olen := rfl
@[simp] theorem State.startCommand_dlen (s : State) (w : Byte) : (s.startCommand w).dlen = s.dlen := rfl
@[simp] theorem State.startCommand_imem (s : State) (w : Byte) : (s.startCommand w).imem = s.imem := rfl
@[simp] theorem State.startCommand_ft (s : State) (w : Byte) : (s.startCommand w).ft = s.ft := rfl
@[simp] theorem State.startCommand_node (s : State) (w : Byte) : (s.startCommand w).node = s.node := rfl
@[simp] theorem State.startCommand_ct (s : State) (w : Byte) : (s.startCommand w).ct = s.ct := rfl
@[simp] theorem State.startCommand_omem (s : State) (w : Byte) : (s.startCommand w).omem = s.omem := rfl
@[simp] theorem State.startCommand_dmem (s : State) (w : Byte) : (s.startCommand w).dmem = s.dmem := rfl
@[simp] theorem State.startCommand_script (s : State) (w : Byte) : (s.startCommand w).script = s.script.dropWhile HostAccess.duringCommand := rfl
@[simp] theorem State.startCommand_reads (s : State) (w : Byte) : (s.startCommand w).reads = s.reads := rfl
@[simp] theorem State.startCommand_fresh (s : State) (w : Byte) : (s.startCommand w).fresh = s.fresh := rfl

/-! ### The valid bits (10_state.md R42, 60_exceptions.md R220) -/

@[simp] theorem Valid.afterFT_ft (v : Valid) : v.afterFT.ft = true := rfl
@[simp] theorem Valid.afterFT_tree (v : Valid) : v.afterFT.tree = false := rfl
@[simp] theorem Valid.afterFT_ct (v : Valid) : v.afterFT.ct = false := rfl
@[simp] theorem Valid.afterFT_out (v : Valid) : v.afterFT.out = false := rfl
@[simp] theorem Valid.afterFT_dec (v : Valid) : v.afterFT.dec = v.dec := rfl
@[simp] theorem Valid.afterTREE_ft (v : Valid) : v.afterTREE.ft = v.ft := rfl
@[simp] theorem Valid.afterTREE_tree (v : Valid) : v.afterTREE.tree = true := rfl
@[simp] theorem Valid.afterTREE_ct (v : Valid) : v.afterTREE.ct = false := rfl
@[simp] theorem Valid.afterTREE_out (v : Valid) : v.afterTREE.out = false := rfl
@[simp] theorem Valid.afterTREE_dec (v : Valid) : v.afterTREE.dec = v.dec := rfl
@[simp] theorem Valid.afterCT_ft (v : Valid) : v.afterCT.ft = v.ft := rfl
@[simp] theorem Valid.afterCT_tree (v : Valid) : v.afterCT.tree = v.tree := rfl
@[simp] theorem Valid.afterCT_ct (v : Valid) : v.afterCT.ct = true := rfl
@[simp] theorem Valid.afterCT_out (v : Valid) : v.afterCT.out = false := rfl
@[simp] theorem Valid.afterCT_dec (v : Valid) : v.afterCT.dec = v.dec := rfl
@[simp] theorem Valid.afterOUT_ft (v : Valid) : v.afterOUT.ft = v.ft := rfl
@[simp] theorem Valid.afterOUT_tree (v : Valid) : v.afterOUT.tree = v.tree := rfl
@[simp] theorem Valid.afterOUT_ct (v : Valid) : v.afterOUT.ct = v.ct := rfl
@[simp] theorem Valid.afterOUT_out (v : Valid) : v.afterOUT.out = true := rfl
@[simp] theorem Valid.afterOUT_dec (v : Valid) : v.afterOUT.dec = v.dec := rfl
@[simp] theorem Valid.afterDEC_ft (v : Valid) : v.afterDEC.ft = v.ft := rfl
@[simp] theorem Valid.afterDEC_tree (v : Valid) : v.afterDEC.tree = v.tree := rfl
@[simp] theorem Valid.afterDEC_ct (v : Valid) : v.afterDEC.ct = v.ct := rfl
@[simp] theorem Valid.afterDEC_out (v : Valid) : v.afterDEC.out = v.out := rfl
@[simp] theorem Valid.afterDEC_dec (v : Valid) : v.afterDEC.dec = true := rfl
@[simp] theorem Valid.loseFT_ft (v : Valid) : v.loseFT.ft = false := rfl
@[simp] theorem Valid.loseFT_tree (v : Valid) : v.loseFT.tree = false := rfl
@[simp] theorem Valid.loseFT_ct (v : Valid) : v.loseFT.ct = false := rfl
@[simp] theorem Valid.loseFT_out (v : Valid) : v.loseFT.out = false := rfl
@[simp] theorem Valid.loseFT_dec (v : Valid) : v.loseFT.dec = v.dec := rfl
@[simp] theorem Valid.loseTREE_ft (v : Valid) : v.loseTREE.ft = v.ft := rfl
@[simp] theorem Valid.loseTREE_tree (v : Valid) : v.loseTREE.tree = false := rfl
@[simp] theorem Valid.loseTREE_ct (v : Valid) : v.loseTREE.ct = false := rfl
@[simp] theorem Valid.loseTREE_out (v : Valid) : v.loseTREE.out = false := rfl
@[simp] theorem Valid.loseTREE_dec (v : Valid) : v.loseTREE.dec = v.dec := rfl
@[simp] theorem Valid.loseCT_ft (v : Valid) : v.loseCT.ft = v.ft := rfl
@[simp] theorem Valid.loseCT_tree (v : Valid) : v.loseCT.tree = v.tree := rfl
@[simp] theorem Valid.loseCT_ct (v : Valid) : v.loseCT.ct = false := rfl
@[simp] theorem Valid.loseCT_out (v : Valid) : v.loseCT.out = false := rfl
@[simp] theorem Valid.loseCT_dec (v : Valid) : v.loseCT.dec = v.dec := rfl
@[simp] theorem Valid.loseOUT_ft (v : Valid) : v.loseOUT.ft = v.ft := rfl
@[simp] theorem Valid.loseOUT_tree (v : Valid) : v.loseOUT.tree = v.tree := rfl
@[simp] theorem Valid.loseOUT_ct (v : Valid) : v.loseOUT.ct = v.ct := rfl
@[simp] theorem Valid.loseOUT_out (v : Valid) : v.loseOUT.out = false := rfl
@[simp] theorem Valid.loseOUT_dec (v : Valid) : v.loseOUT.dec = v.dec := rfl
@[simp] theorem Valid.loseDEC_ft (v : Valid) : v.loseDEC.ft = v.ft := rfl
@[simp] theorem Valid.loseDEC_tree (v : Valid) : v.loseDEC.tree = v.tree := rfl
@[simp] theorem Valid.loseDEC_ct (v : Valid) : v.loseDEC.ct = v.ct := rfl
@[simp] theorem Valid.loseDEC_out (v : Valid) : v.loseDEC.out = v.out := rfl
@[simp] theorem Valid.loseDEC_dec (v : Valid) : v.loseDEC.dec = false := rfl
@[simp] theorem Valid.none_ft : Valid.none.ft = false := rfl
@[simp] theorem Valid.none_tree : Valid.none.tree = false := rfl
@[simp] theorem Valid.none_ct : Valid.none.ct = false := rfl
@[simp] theorem Valid.none_out : Valid.none.out = false := rfl
@[simp] theorem Valid.none_dec : Valid.none.dec = false := rfl

end Sys2Proof.Machine
end

