-- ==== Sys2Proof/Laws/Memory.lean ====
section
/-! SUPPORT. What the memory operations do: reading after writing, that every operation keeps the canonical form, and what a range
read gives. -/

namespace Sys2Proof.Machine

variable {α : Type}

/-! ### Reading after writing -/

@[simp] theorem Memory.read_nil (i : Nat) : Memory.read ([] : Memory α) i = none := rfl

theorem Memory.read_write (m : Memory α) (i j : Nat) (v : α) :
    Memory.read (Memory.write m i v) j = if j = i then some v else Memory.read m j := by
  induction m with
  | nil => simp [Memory.write, Memory.read]
  | cons e rest ih =>
    obtain ⟨k, w⟩ := e
    by_cases h1 : i < k
    · simp only [Memory.write, if_pos h1, Memory.read]
    · by_cases h2 : i = k
      · subst h2
        simp only [Memory.write, lt_irrefl, if_false, if_true, Memory.read]
        split_ifs <;> rfl
      · simp only [Memory.write, if_neg h1, if_neg h2, Memory.read, ih]
        split_ifs <;> first | rfl | omega

@[simp] theorem Memory.read_write_same (m : Memory α) (i : Nat) (v : α) : Memory.read (Memory.write m i v) i = some v := by
  simp [Memory.read_write]

theorem Memory.read_write_other (m : Memory α) {i j : Nat} (h : j ≠ i) (v : α) :
    Memory.read (Memory.write m i v) j = Memory.read m j := by
  simp [Memory.read_write, h]

theorem Memory.read_entriesFrom (vs : List α) (start j : Nat) :
    Memory.read (Memory.entriesFrom start vs) j = if j < start then none else vs[j - start]? := by
  induction vs generalizing start with
  | nil => simp [Memory.entriesFrom]
  | cons v vs ih =>
    simp only [Memory.entriesFrom, Memory.read, ih]
    rcases lt_trichotomy j start with h | h | h
    · simp [h, Nat.ne_of_lt h, Nat.lt_succ_of_lt h]
    · simp [h]
    · have h1 : j - start = (j - (start + 1)) + 1 := by omega
      rw [if_neg (by omega), if_neg (by omega), if_neg (by omega), h1, List.getElem?_cons_succ]

theorem Memory.read_writeFrom (vs : List α) (m : Memory α) (start j : Nat) :
    Memory.read (Memory.writeFrom m start vs) j =
      if start ≤ j ∧ j < start + vs.length then vs[j - start]? else Memory.read m j := by
  induction vs generalizing m start with
  | nil =>
    simp only [Memory.writeFrom, List.length_nil, Nat.add_zero]
    rw [if_neg (by omega)]
  | cons v vs ih =>
    simp only [Memory.writeFrom, ih, Memory.read_write, List.length_cons]
    rcases lt_trichotomy j start with h | h | h
    · rw [if_neg (by omega), if_neg (by omega), if_neg (by omega)]
    · subst h; simp
    · have h1 : j - start = (j - (start + 1)) + 1 := by omega
      rw [h1, List.getElem?_cons_succ, if_neg (show ¬ j = start by omega)]
      split_ifs <;> first | rfl | omega

/-! ### The canonical form -/

theorem Memory.wf_tail {e : Nat × α} {m : Memory α} (h : Memory.wf (e :: m) = true) : Memory.wf m = true := by
  cases m with
  | nil => rfl
  | cons => simp only [Memory.wf, Bool.and_eq_true] at h; exact h.2

/-- The canonical form says that every later index is larger. -/
theorem Memory.wf_cons_iff (i : Nat) (v : α) (m : Memory α) :
    Memory.wf ((i, v) :: m) = true ↔ (∀ e ∈ m, i < e.1) ∧ Memory.wf m = true := by
  induction m generalizing i v with
  | nil => simp [Memory.wf]
  | cons e rest ih =>
    obtain ⟨j, w⟩ := e
    simp only [Memory.wf, Bool.and_eq_true, decide_eq_true_eq, List.mem_cons, forall_eq_or_imp]
    constructor
    · rintro ⟨hij, hw⟩
      exact ⟨⟨hij, fun e he => lt_trans hij (((ih j w).1 hw).1 e he)⟩, hw⟩
    · rintro ⟨⟨hij, -⟩, hw⟩
      exact ⟨hij, hw⟩

theorem Memory.mem_write {m : Memory α} {i : Nat} {v : α} {e : Nat × α} (h : e ∈ Memory.write m i v) :
    e = (i, v) ∨ e ∈ m := by
  induction m with
  | nil => simpa [Memory.write] using h
  | cons x rest ih =>
    obtain ⟨k, w⟩ := x
    unfold Memory.write at h
    split_ifs at h with h1 h2
    · simpa using h
    · simp only [List.mem_cons] at h ⊢; tauto
    · simp only [List.mem_cons] at h ⊢
      rcases h with h | h
      · exact .inr (.inl h)
      · rcases ih h with h | h
        · exact .inl h
        · exact .inr (.inr h)

/-- A write keeps the canonical form. -/
theorem Memory.wf_write {m : Memory α} (h : Memory.wf m = true) (i : Nat) (v : α) : Memory.wf (Memory.write m i v) = true := by
  induction m with
  | nil => rfl
  | cons x rest ih =>
    obtain ⟨k, w⟩ := x
    obtain ⟨hk, hr⟩ := (Memory.wf_cons_iff k w rest).1 h
    unfold Memory.write
    split_ifs with h1 h2
    · refine (Memory.wf_cons_iff ..).2 ⟨fun e he => ?_, h⟩
      rcases List.mem_cons.1 he with rfl | he
      · exact h1
      · exact lt_trans h1 (hk e he)
    · subst h2; exact (Memory.wf_cons_iff ..).2 ⟨hk, hr⟩
    · refine (Memory.wf_cons_iff ..).2 ⟨fun e he => ?_, ih hr⟩
      rcases Memory.mem_write he with rfl | he
      · show k < i; omega
      · exact hk e he

theorem Memory.le_of_mem_entriesFrom {vs : List α} {start : Nat} {e : Nat × α} (h : e ∈ Memory.entriesFrom start vs) :
    start ≤ e.1 := by
  induction vs generalizing start with
  | nil => simp [Memory.entriesFrom] at h
  | cons v vs ih =>
    rcases List.mem_cons.1 h with rfl | h
    · exact le_refl _
    · have := ih h; omega

/-- Consecutive entries are canonical. -/
theorem Memory.wf_entriesFrom (vs : List α) (start : Nat) : Memory.wf (Memory.entriesFrom start vs) = true := by
  induction vs generalizing start with
  | nil => rfl
  | cons v vs ih =>
    exact (Memory.wf_cons_iff ..).2 ⟨fun e he => by have := Memory.le_of_mem_entriesFrom he; omega, ih _⟩

/-- Consecutive writes keep the canonical form. -/
theorem Memory.wf_writeFrom (vs : List α) {m : Memory α} (h : Memory.wf m = true) (start : Nat) :
    Memory.wf (Memory.writeFrom m start vs) = true := by
  induction vs generalizing m start with
  | nil => exact h
  | cons v vs ih => exact ih (Memory.wf_write h start v) (start + 1)

/-- A list of writes keeps the canonical form. -/
theorem Memory.wf_writeAll (es : List (Nat × α)) {m : Memory α} (h : Memory.wf m = true) :
    Memory.wf (Memory.writeAll m es) = true := by
  induction es generalizing m with
  | nil => exact h
  | cons e es ih => exact ih (Memory.wf_write h e.1 e.2)

/-- In a canonical memory an entry is listed exactly when it is what a read gives. -/
theorem Memory.read_eq_some_iff {m : Memory α} (h : Memory.wf m = true) (i : Nat) (v : α) :
    Memory.read m i = some v ↔ (i, v) ∈ m := by
  induction m with
  | nil => simp
  | cons x rest ih =>
    obtain ⟨k, w⟩ := x
    obtain ⟨hk, hr⟩ := (Memory.wf_cons_iff k w rest).1 h
    simp only [Memory.read, List.mem_cons, Prod.mk.injEq]
    split_ifs with h1
    · subst h1
      constructor
      · intro h2; exact .inl ⟨rfl, (Option.some.inj h2).symm⟩
      · rintro (⟨-, h2⟩ | h2)
        · rw [h2]
        · exact absurd (hk _ h2) (lt_irrefl _)
    · rw [ih hr]
      constructor
      · exact .inr
      · rintro (⟨h2, -⟩ | h2)
        · exact absurd h2 h1
        · exact h2

/-! ### Range reads -/

@[simp] theorem Memory.readRange_zero (m : Memory α) (start : Nat) : Memory.readRange m start 0 = some [] := rfl

/-- What a range read answers: the entries one by one, all of them specified. -/
theorem Memory.readRange_eq_some_iff (m : Memory α) (start n : Nat) (vs : List α) :
    Memory.readRange m start n = some vs ↔ vs.length = n ∧ ∀ k, k < n → Memory.read m (start + k) = vs[k]? := by
  induction n generalizing start vs with
  | zero =>
    constructor
    · intro h; cases h; simp
    · rintro ⟨h, -⟩; rw [List.length_eq_zero_iff.1 h]; rfl
  | succ n ih =>
    unfold Memory.readRange
    constructor
    · intro h
      split at h
      · cases h
      · rename_i v hv
        split at h
        · cases h
        · rename_i ws hws
          cases h
          obtain ⟨hl, hr⟩ := (ih _ _).1 hws
          refine ⟨by simp [hl], fun k hk => ?_⟩
          cases k with
          | zero => simpa using hv
          | succ k =>
            have := hr k (by omega)
            rw [show start + 1 + k = start + (k + 1) by omega] at this
            simpa using this
    · rintro ⟨hl, hr⟩
      cases vs with
      | nil => simp at hl
      | cons v ws =>
        have h0 := hr 0 (by omega)
        simp only [Nat.add_zero, List.getElem?_cons_zero] at h0
        have h1 : Memory.readRange m (start + 1) n = some ws := by
          refine (ih _ _).2 ⟨by simpa using hl, fun k hk => ?_⟩
          have := hr (k + 1) (by omega)
          rw [show start + (k + 1) = start + 1 + k by omega] at this
          simpa using this
        simp [h0, h1]

theorem Memory.readRange_length {m : Memory α} {start n : Nat} {vs : List α} (h : Memory.readRange m start n = some vs) :
    vs.length = n := ((Memory.readRange_eq_some_iff ..).1 h).1

/-- The entries a structure was written with are what reading it whole gives. -/
theorem Memory.readRange_entriesFrom (vs : List α) :
    Memory.readRange (Memory.entriesFrom 0 vs) 0 vs.length = some vs := by
  refine (Memory.readRange_eq_some_iff ..).2 ⟨rfl, fun k _ => ?_⟩
  simp [Memory.read_entriesFrom]

/-- The entries consecutive writes have written are what reading them whole gives. -/
theorem Memory.readRange_writeFrom (vs : List α) (m : Memory α) (start : Nat) :
    Memory.readRange (Memory.writeFrom m start vs) start vs.length = some vs := by
  refine (Memory.readRange_eq_some_iff ..).2 ⟨rfl, fun k hk => ?_⟩
  rw [Memory.read_writeFrom, if_pos ⟨by omega, by omega⟩, Nat.add_sub_cancel_left]

end Sys2Proof.Machine
end

