-- ==== Sys2Proof/Laws/Bodies.lean ====
section
/-! SUPPORT. What each shared operation can do, said once: how a body ends, what raising an error does, and the cases of each command's
body. -/

namespace Sys2Proof.Machine

/-! ### Ends -/

theorem Body.outcome_eq_next {b : Body} {t : State} (h : b.outcome = .next t) :
    ∃ s, (b = .done s ∨ b = .raised s) ∧ t = s.goIdle := by
  cases b with
  | done s => exact ⟨s, .inl rfl, by simpa [Body.outcome] using h.symm⟩
  | raised s => exact ⟨s, .inr rfl, by simpa [Body.outcome] using h.symm⟩
  | fault => cases h
  | refused => cases h

theorem Body.andThen_cases (b : Body) (next : State → Body) :
    (∃ s, b = .done s ∧ b.andThen next = next s) ∨ ((∀ s, b ≠ .done s) ∧ b.andThen next = b) := by
  cases b with
  | done s => exact .inl ⟨s, rfl, rfl⟩
  | raised s => exact .inr ⟨fun _ h => (by cases h), rfl⟩
  | fault r => exact .inr ⟨fun _ h => (by cases h), rfl⟩
  | refused r => exact .inr ⟨fun _ h => (by cases h), rfl⟩

@[simp] theorem Body.andThen_done (s : State) (next : State → Body) : (Body.done s).andThen next = next s := rfl
@[simp] theorem Body.andThen_raised (s : State) (next : State → Body) : (Body.raised s).andThen next = .raised s := rfl
@[simp] theorem Body.andThen_fault (r : Fault) (next : State → Body) : (Body.fault r).andThen next = .fault r := rfl
@[simp] theorem Body.andThen_refused (r : Refusal) (next : State → Body) : (Body.refused r).andThen next = .refused r := rfl
@[simp] theorem Body.outcome_done (s : State) : (Body.done s).outcome = .next s.goIdle := rfl
@[simp] theorem Body.outcome_raised (s : State) : (Body.raised s).outcome = .next s.goIdle := rfl

/-- R43, R220: raising an error writes its code and nothing outside the row's effect. -/
@[simp] theorem raiseError_err (s : State) (r : ErrorRow) : (raiseError s r).err = r.err := rfl

/-- An error is never the reserved code, and never OK. -/
theorem ErrorRow.err_ne (r : ErrorRow) : r.err ≠ .ok ∧ r.err ≠ .inputUnavailable := by cases r <;> decide

/-- R220: what every error leaves alone: the input, the tables, the tree, the host's side. -/
theorem raiseError_keeps (s : State) (r : ErrorRow) :
    (raiseError s r).par = s.par ∧ (raiseError s r).cmd = s.cmd ∧ (raiseError s r).ilen = s.ilen ∧ (raiseError s r).imem = s.imem ∧
      (raiseError s r).ft = s.ft ∧ (raiseError s r).ftn = s.ftn ∧ (raiseError s r).node = s.node ∧ (raiseError s r).noden = s.noden ∧
      (raiseError s r).root = s.root ∧ (raiseError s r).ct = s.ct ∧ (raiseError s r).ctn = s.ctn ∧
      (raiseError s r).script = s.script ∧ (raiseError s r).reads = s.reads ∧ (raiseError s r).fresh = s.fresh := by
  cases r <;> exact ⟨rfl, rfl, rfl, rfl, rfl, rfl, rfl, rfl, rfl, rfl, rfl, rfl, rfl, rfl⟩

/-! ### The cases of each body -/

theorem countBody_cases (s : State) :
    (s.input = none ∧ countBody s = .fault .unspecifiedRead) ∨
    (∃ input, s.input = some input ∧ countBody s = endOk (s.putFT (countTable input))) := by
  unfold countBody
  cases h : s.input with
  | none => exact .inl ⟨rfl, rfl⟩
  | some input => exact .inr ⟨input, rfl, rfl⟩

theorem buildBody_cases (s : State) :
    (s.valid.ft = false ∧ buildBody s = endError s .sequenceError) ∨
    (s.valid.ft = true ∧ s.ftn = 0 ∧ buildBody s = endError s .emptyInput) ∨
    (s.valid.ft = true ∧ s.ftn ≠ 0 ∧ (∀ table, s.ftTable = some table → wfFT table = false) ∧ buildBody s = .refused .illFormedFT) ∨
    (∃ table, s.valid.ft = true ∧ s.ftn ≠ 0 ∧ s.ftTable = some table ∧ wfFT table = true ∧
      buildBody s = endOk (s.putTREE (buildTree table).1 (buildTree table).2)) := by
  unfold buildBody
  by_cases hv : s.valid.ft = false
  · exact .inl ⟨hv, by rw [if_pos hv]⟩
  rw [if_neg hv]
  rw [Bool.not_eq_false] at hv
  by_cases h0 : s.ftn = 0
  · exact .inr (.inl ⟨hv, h0, by rw [if_pos h0]⟩)
  rw [if_neg h0]
  cases ht : s.ftTable with
  | none => exact .inr (.inr (.inl ⟨hv, h0, fun _ h => (by cases h), rfl⟩))
  | some table =>
    cases hw : wfFT table with
    | false => exact .inr (.inr (.inl ⟨hv, h0, fun x h => (by cases h; exact hw), by simp [hw]⟩))
    | true => exact .inr (.inr (.inr ⟨table, hv, h0, rfl, hw, by simp [hw]⟩))

theorem assignBody_cases (s : State) :
    (s.valid.tree = false ∧ assignBody s = endError s .sequenceError) ∨
    (s.valid.tree = true ∧ assignEntries s.node s.root = none ∧ assignBody s = .fault .brokenTree) ∨
    (∃ entries, s.valid.tree = true ∧ assignEntries s.node s.root = some entries ∧
      assignBody s = endOk (s.putCT entries ((s.noden + 1) / 2))) := by
  unfold assignBody
  by_cases hv : s.valid.tree = false
  · exact .inl ⟨hv, by rw [if_pos hv]⟩
  rw [if_neg hv]
  rw [Bool.not_eq_false] at hv
  cases he : assignEntries s.node s.root with
  | none => exact .inr (.inl ⟨hv, rfl, rfl⟩)
  | some entries => exact .inr (.inr ⟨entries, hv, rfl, rfl⟩)

theorem packBody_cases (s : State) :
    (s.valid.ct = false ∧ packBody s = endError s .sequenceError) ∨
    (s.valid.ct = true ∧ (∀ table, s.ctTable = some table → wfCT table = false) ∧ packBody s = .refused .illFormedCT) ∨
    (∃ table, s.valid.ct = true ∧ s.ctTable = some table ∧ wfCT table = true ∧
      ((concatCodes table s.imem s.ilen 0 [] = .unread ∧ packBody s = .fault .unspecifiedRead) ∨
       (concatCodes table s.imem s.ilen 0 [] = .uncovered ∧ packBody s = endError s .uncoveredSymbol) ∨
       (∃ bits, concatCodes table s.imem s.ilen 0 [] = .bits bits ∧
         packBody s = endOk (s.putOUT (packBytes (padded bits)) bits.length (padding bits.length))))) := by
  unfold packBody
  by_cases hv : s.valid.ct = false
  · exact .inl ⟨hv, by rw [if_pos hv]⟩
  rw [if_neg hv]
  rw [Bool.not_eq_false] at hv
  cases ht : s.ctTable with
  | none => exact .inr (.inl ⟨hv, fun _ h => (by cases h), rfl⟩)
  | some table =>
    cases hw : wfCT table with
    | false => exact .inr (.inl ⟨hv, fun x h => (by cases h; exact hw), by simp [hw]⟩)
    | true =>
      refine .inr (.inr ⟨table, hv, rfl, hw, ?_⟩)
      cases hc : concatCodes table s.imem s.ilen 0 [] with
      | unread => exact .inl ⟨rfl, by simp [hw, hc]⟩
      | uncovered => exact .inr (.inl ⟨rfl, by simp [hw, hc]⟩)
      | bits bits => exact .inr (.inr ⟨bits, rfl, by simp [hw, hc]⟩)

/-- Every way `DECODE` ends: one of the three errors, the two stops, or OK with some symbols. -/
theorem decodeBody_cases (s : State) :
    (s.valid.ct = false ∧ decodeBody s = endError s .tableMissing) ∨
    (s.valid.ct = true ∧ decodeBody s = .refused .illFormedCT) ∨
    (s.valid.ct = true ∧ decodeBody s = .fault .unspecifiedRead) ∨
    (s.valid.ct = true ∧ (decodeBody s = endError s .decodeCorruption ∨ decodeBody s = endError s .tableMismatch)) ∨
    (∃ out, s.valid.ct = true ∧ decodeBody s = endOk (s.putDEC out)) := by
  unfold decodeBody
  by_cases hv : s.valid.ct = false
  · exact .inl ⟨hv, by rw [if_pos hv]⟩
  rw [if_neg hv]
  rw [Bool.not_eq_false] at hv
  cases s.ctTable with
  | none => exact .inr (.inl ⟨hv, rfl⟩)
  | some table =>
    dsimp only
    split
    swap
    · exact .inr (.inl ⟨hv, rfl⟩)
    unfold decodePayload
    split
    · exact .inr (.inr (.inr (.inl ⟨hv, .inl rfl⟩)))
    split
    · exact .inr (.inr (.inl ⟨hv, rfl⟩))
    split
    · exact .inr (.inr (.inr (.inl ⟨hv, .inl rfl⟩)))
    split
    · exact .inr (.inr (.inl ⟨hv, rfl⟩))
    unfold decodeData
    split
    · exact .inr (.inr (.inr (.inl ⟨hv, .inl rfl⟩)))
    split
    · exact .inr (.inr (.inr (.inr ⟨_, hv, rfl⟩)))
    · exact .inr (.inr (.inr (.inl ⟨hv, .inr rfl⟩)))
    · exact .inr (.inr (.inr (.inl ⟨hv, .inl rfl⟩)))

/-! ### The step -/

/-- What a step can be. -/
theorem step_cases (s : State) :
    (s.cmd = none ∧ s.script = [] ∧ step s = .next s) ∨
    (∃ a rest, s.cmd = none ∧ s.script = a :: rest ∧ step s = hostAccess (s.withScript rest) a) ∨
    (∃ w rest, s.cmd = some w ∧ s.script = .pollStatus :: rest ∧ step s = .next (pollBusy (s.withScript rest))) ∨
    (∃ w rest, s.cmd = some w ∧ s.script = .hardReset :: rest ∧ step s = .next (hardReset (s.withScript rest))) ∨
    (∃ w, s.cmd = some w ∧ s.interrupted = false ∧ step s = runCommand s w) := by
  unfold step nextEvent
  cases hc : s.cmd with
  | none =>
    cases hs : s.script with
    | nil => exact .inl ⟨rfl, rfl, rfl⟩
    | cons a rest => exact .inr (.inl ⟨a, rest, rfl, rfl, rfl⟩)
  | some w =>
    cases hs : s.script with
    | nil => exact .inr (.inr (.inr (.inr ⟨w, rfl, by simp [State.interrupted, hs], rfl⟩)))
    | cons a rest =>
      cases a with
      | pollStatus => exact .inr (.inr (.inl ⟨w, rest, rfl, rfl, rfl⟩))
      | hardReset => exact .inr (.inr (.inr (.inl ⟨w, rest, rfl, rfl, rfl⟩)))
      | writeReg reg v => exact .inr (.inr (.inr (.inr ⟨w, rfl, by simp [State.interrupted, hs, HostAccess.duringCommand], rfl⟩)))
      | writeMem mem i v => exact .inr (.inr (.inr (.inr ⟨w, rfl, by simp [State.interrupted, hs, HostAccess.duringCommand], rfl⟩)))
      | readReg reg => exact .inr (.inr (.inr (.inr ⟨w, rfl, by simp [State.interrupted, hs, HostAccess.duringCommand], rfl⟩)))
      | readMem mem i => exact .inr (.inr (.inr (.inr ⟨w, rfl, by simp [State.interrupted, hs, HostAccess.duringCommand], rfl⟩)))

end Sys2Proof.Machine
end

