-- ==== Sys2Proof/Laws/PerInstr.lean ====
section
/-! SUPPORT. What holds of every command as syntax, one lemma per constructor. -/

/-- 30_encoding.md R85, R87: the command is well-formed, and its word is one well-formed byte. -/
def Sys2Proof.Laws.EncodedWord.Statement (i : Sys2Proof.Instr) : Prop :=
  i.wellFormed = true ∧ Sys2Proof.wellFormedWord (Sys2Proof.encodeWord i) = true ∧ (Sys2Proof.encodeBytes i).length = 1

theorem Sys2Proof.Laws.EncodedWord.clear : Sys2Proof.Laws.EncodedWord.Statement .clear := ⟨rfl, rfl, rfl⟩
theorem Sys2Proof.Laws.EncodedWord.count : Sys2Proof.Laws.EncodedWord.Statement .count := ⟨rfl, rfl, rfl⟩
theorem Sys2Proof.Laws.EncodedWord.build : Sys2Proof.Laws.EncodedWord.Statement .build := ⟨rfl, rfl, rfl⟩
theorem Sys2Proof.Laws.EncodedWord.assign : Sys2Proof.Laws.EncodedWord.Statement .assign := ⟨rfl, rfl, rfl⟩
theorem Sys2Proof.Laws.EncodedWord.pack : Sys2Proof.Laws.EncodedWord.Statement .pack := ⟨rfl, rfl, rfl⟩
theorem Sys2Proof.Laws.EncodedWord.encode : Sys2Proof.Laws.EncodedWord.Statement .encode := ⟨rfl, rfl, rfl⟩
theorem Sys2Proof.Laws.EncodedWord.decode : Sys2Proof.Laws.EncodedWord.Statement .decode := ⟨rfl, rfl, rfl⟩
end

