-- ==== Sys2Proof/Laws/Tables.lean ====
section
/-! SUPPORT. The checks of host-loaded tables are the predicates of 10_state.md R33 and R35. -/

namespace Sys2Proof.Machine

/-- R33: the check `wfFT` is `WF_FT`. -/
theorem wfFT_iff (table : List FtEntry) :
    wfFT table = true ↔ (table.map FtEntry.sym).Nodup ∧ ∀ e ∈ table, 1 ≤ e.cnt := by
  induction table with
  | nil => simp [wfFT]
  | cons e rest ih =>
    simp only [wfFT, Bool.and_eq_true, decide_eq_true_eq, List.all_eq_true, bne_iff_ne, ih, List.map_cons, List.nodup_cons,
      List.mem_map, not_exists, not_and, List.forall_mem_cons]
    tauto

/-- R35 (d): the check of one pair. -/
theorem prefixFreePair_iff (a b : CtEntry) : prefixFreePair a b = true ↔ ¬ a.code <+: b.code ∧ ¬ b.code <+: a.code := by
  simp [prefixFreePair, ← List.isPrefixOf_iff_prefix]

/-- R35: the check `wfCT` is `WF_CT`. -/
theorem wfCT_iff (table : List CtEntry) : wfCT table = true ↔ WellFormedCT table := by
  induction table with
  | nil => exact iff_of_true rfl ⟨by simp, by simp, by simp, by simp⟩
  | cons e rest ih =>
    simp only [wfCT, Bool.and_eq_true, decide_eq_true_eq, List.all_eq_true, bne_iff_ne, prefixFreePair_iff, ih]
    constructor
    · rintro ⟨⟨⟨hl, hv⟩, hp⟩, hr⟩
      refine ⟨?_, List.forall_mem_cons.2 ⟨hl, hr.nonempty⟩, List.forall_mem_cons.2 ⟨hv, hr.fits⟩,
        List.pairwise_cons.2 ⟨fun x hx => (hp x hx).2, hr.prefixFree⟩⟩
      rw [List.map_cons, List.nodup_cons]
      refine ⟨fun hm => ?_, hr.symbols⟩
      obtain ⟨x, hx, hxe⟩ := List.mem_map.1 hm
      exact (hp x hx).1 hxe
    · rintro ⟨hs, hl, hv, hp⟩
      rw [List.map_cons, List.nodup_cons] at hs
      have hp := List.pairwise_cons.1 hp
      exact ⟨⟨⟨(List.forall_mem_cons.1 hl).1, (List.forall_mem_cons.1 hv).1⟩,
          fun x hx => ⟨fun h => hs.1 (List.mem_map.2 ⟨x, hx, h⟩), hp.1 x hx⟩⟩,
        ⟨hs.2, (List.forall_mem_cons.1 hl).2, (List.forall_mem_cons.1 hv).2, hp.2⟩⟩

end Sys2Proof.Machine
end

