-- ==== Sys2Proof/Tests/Slice0.lean ====
section
/-! SUPPORT. Tests: words and numbers written out from the spec's encodings, the spec's own vectors (95_test_vectors.md) one command at a time,
and a witness for the hypotheses of every obligation that has some. Expected values come from the spec, never from a run of the model. -/

namespace Sys2Proof.Tests

open Sys2Proof.Machine

/-! ### Small states -/

/-- The reset state with the input loaded. -/
def withInput (input : List Sym) : State :=
  { State.reset with imem := Memory.entriesFrom 0 input, ilen := input.length }

/-- A state with a committed frequency table. -/
def withFT (table : List FtEntry) : State :=
  { State.reset with ft := Memory.entriesFrom 0 table, ftn := table.length, valid := Valid.none.afterFT }

/-- A state with a tree. -/
def withTREE (nodes : List Node) : State :=
  { State.reset with node := Memory.entriesFrom 0 nodes, noden := nodes.length, root := nodes.length - 1,
                     valid := Valid.none.afterFT.afterTREE }

/-- A state with a committed code table, an input and a payload. -/
def withCT (table : List CtEntry) (input : List Sym) (payload : List Byte) : State :=
  { State.reset with ct := Memory.entriesFrom 0 table, ctn := table.length, valid := Valid.none.afterCT,
                     imem := Memory.entriesFrom 0 input, ilen := input.length,
                     omem := Memory.entriesFrom 0 payload, olen := payload.length }

/-- The state a command ends in. -/
def after : Host.Outcome State Fault Refusal → Option State
  | .next s => some s
  | .fault _ => none
  | .refused _ => none

/-- `AABBBCCCC` (vector V1). -/
def inputV1 : List Sym := [65, 65, 66, 66, 66, 67, 67, 67, 67]

/-- The frequency table of V1. -/
def ftV1 : List FtEntry := [⟨65, 2⟩, ⟨66, 3⟩, ⟨67, 4⟩]

/-- The nodes of V1. -/
def nodesV1 : List Node := [.leaf 65 2, .leaf 66 3, .leaf 67 4, .internal 5 0 1, .internal 9 2 3]

/-- The code table of V1: `A = "10"`, `B = "11"`, `C = "0"`. -/
def ctV1 : List CtEntry := [⟨65, 2, 2⟩, ⟨66, 2, 3⟩, ⟨67, 1, 0⟩]

/-- Table γ: one symbol, `A = "0"`. -/
def ctOne : List CtEntry := [⟨65, 1, 0⟩]

/-! ### Words (30_encoding.md R85, R86, R88) -/

theorem test_word_clear : decodeWord 0b00000001#8 = .command .clear := by decide
theorem test_word_count : decodeWord 0b00000010#8 = .command .count := by decide
theorem test_word_build : decodeWord 0b00000011#8 = .command .build := by decide
theorem test_word_assign : decodeWord 0b00000100#8 = .command .assign := by decide
theorem test_word_pack : decodeWord 0b00000101#8 = .command .pack := by decide
theorem test_word_encode : decodeWord 0b00000110#8 = .command .encode := by decide
theorem test_word_decode : decodeWord 0b00000111#8 = .command .decode := by decide
theorem test_word_zero_illegal : decodeWord 0b00000000#8 = .illegal .opcodeZero := by decide
theorem test_word_eight_illegal : decodeWord 0b00001000#8 = .illegal .highBitsSet := by decide
theorem test_word_high_bit_illegal : decodeWord 0b10000001#8 = .illegal .highBitsSet := by decide

/-! ### Ill-formed terms, one for each check -/

theorem test_wf_word_high_bits : wellFormedWord 0b00001001#8 = false := by decide
theorem test_wf_word_opcode_zero : wellFormedWord 0b00000000#8 = false := by decide
theorem test_wf_word_accepts : wellFormedWord 0b00000111#8 = true := by decide
theorem test_wfFT_duplicate_symbol : wfFT [⟨65, 1⟩, ⟨66, 2⟩, ⟨65, 3⟩] = false := by decide
theorem test_wfFT_zero_count : wfFT [⟨65, 1⟩, ⟨66, 0⟩] = false := by decide
theorem test_wfCT_duplicate_symbol : wfCT [⟨65, 1, 0⟩, ⟨65, 1, 1⟩] = false := by decide
theorem test_wfCT_empty_code : wfCT [⟨65, 0, 0⟩] = false := by decide
theorem test_wfCT_wide_val : wfCT [⟨65, 1, 2⟩] = false := by decide
theorem test_wfCT_prefix : wfCT [⟨65, 1, 1⟩, ⟨66, 2, 2⟩] = false := by decide
theorem test_wfCT_accepts : wfCT ctV1 = true := by decide

/-! ### Entry numbers (vector X1) -/

theorem test_ft_number : encodeFt Params.standard ⟨65, 2⟩ = 0x4100000002 := by decide
theorem test_ft_read : decodeFt Params.standard 0x4200000003 = ⟨66, 3⟩ := by decide
theorem test_node_leaf_number : encodeNode Params.standard 0 0 (.leaf 65 2) = 0x10400000000080000 := by decide
theorem test_node_internal_number : encodeNode Params.standard 0 0 (.internal 9 2 3) = 0x40000000000240403 := by decide
theorem test_ct_number : encodeCt Params.standard ⟨66, 2, 3⟩ = (0x42 * 2 ^ 8 + 2) * 2 ^ 255 + 3 := by decide
theorem test_code_bits : (⟨65, 3, 6⟩ : CtEntry).code = [true, true, false] := by decide
theorem test_byte_first_bit : byteOf [true, false, true, false, true, true, true, true] = 0xAF := by decide

/-! ### Commands, one at a time (vectors V1, V2, V11, K1, K6, W1, W4, W20, E24) -/

theorem test_count_v1 : (after (exec .count (withInput inputV1))).map (fun t => (t.ft, t.ftn, statusWord t)) =
    some ([(0, ⟨65, 2⟩), (1, ⟨66, 3⟩), (2, ⟨67, 4⟩)], 3, 0x002) := by decide
theorem test_count_first_occurrence : (after (exec .count (withInput [66, 65]))).map State.ft =
    some [(0, ⟨66, 1⟩), (1, ⟨65, 1⟩)] := by decide
theorem test_build_v1 : (after (exec .build (withFT ftV1))).map (fun t => (t.nodes, t.noden, t.root)) =
    some (some nodesV1, 5, 4) := by decide
theorem test_build_leaf_before_internal :
    (after (exec .build (withFT [⟨65, 1⟩, ⟨66, 1⟩, ⟨67, 2⟩]))).map (fun t => t.node.read 4) =
      some (some (.internal 4 2 3)) := by decide
theorem test_assign_v1 : (after (exec .assign (withTREE nodesV1))).map (fun t => (t.ctTable, t.ctn)) =
    some (some ctV1, 3) := by decide
theorem test_assign_single_leaf : (after (exec .assign (withTREE [.leaf 65 4]))).map (fun t => (t.ctTable, t.ctn)) =
    some (some ctOne, 1) := by decide
theorem test_pack_v1_and_empty : (after (exec .pack (withCT ctV1 inputV1 []))).map (fun t => (t.payload, t.bitlen, t.pad)) =
    some (some [0x02, 0xAF, 0xC0], 14, 2) ∧
  (after (exec .pack (withCT ctV1 [] []))).map (fun t => (t.payload, t.bitlen, t.pad)) =
    some (some [0x08, 0x00], 0, 8) := by decide
theorem test_pack_uncovered : (after (exec .pack (withCT ctV1 [65, 66, 67, 68] [0x01]))).map (fun t => (t.omem, t.olen, t.err)) =
    some ([], 0, .uncoveredSymbol) := by decide
theorem test_encode_v8 : (after (exec .encode (withInput [65, 66, 67, 67]))).map (fun t => (t.payload, statusWord t)) =
    some (some [0x02, 0xB0], 0x01E) := by decide
theorem test_encode_single : (after (exec .encode (withInput [65, 65, 65, 65]))).map (fun t => (t.payload, statusWord t)) =
    some (some [0x04, 0x00], 0x01E) := by decide
theorem test_decode_w1 : (after (exec .decode (withCT ctV1 [] [0x02, 0xAF, 0xC0]))).map (fun t => (t.decoded, t.dlen)) =
    some (some inputV1, 9) := by decide
theorem test_decode_w4_and_w20 : (after (exec .decode (withCT ctV1 [] [0x01, 0xAF]))).map (fun t => (t.err, t.dlen)) =
    some (.decodeCorruption, 0) ∧
  (after (exec .decode (withCT ctOne [] [0x04, 0x10]))).map (fun t => (t.err, t.dlen)) =
    some (.tableMismatch, 0) := by decide
theorem test_clear_registers : (after (exec .clear (withCT ctV1 inputV1 [0x02]))).map (fun t => (statusWord t, t.ilen, t.ctn, t.olen)) =
    some (0x000, 0, 0, 0) := by decide
theorem test_clear_keeps_memory : (after (exec .clear (withCT ctV1 inputV1 [0x02]))).map (fun t => (t.omem, t.ct)) =
    some ([(0, 0x02)], [(0, ⟨65, 2, 2⟩), (1, ⟨66, 2, 3⟩), (2, ⟨67, 1, 0⟩)]) := by decide

/-! ### Steps (E13, W26, R71) -/

/-- The host's script on a state. -/
def withScript (s : State) (script : List HostAccess) : State := { s with script := script }

theorem test_step_fetched_word : (after (step (State.reset.withFetchWord 8 3))).map statusWord = some 0x600 := by decide
theorem test_step_illegal_word : (after (step (withScript (withFT ftV1) [.writeReg 0 9]))).map statusWord = some 0x702 := by decide
theorem test_step_command_starts : (after (step (withScript State.reset [.writeReg 0 6]))).map statusWord = some 0x001 := by decide
theorem test_step_read_status : (after (step (withScript (withFT ftV1) [.readReg 1]))).map State.reads = some [0x002] := by decide
theorem test_step_write_ft : (after (step (withScript (withFT ftV1) [.writeMem 1 0 0x4100000002]))).map statusWord = some 0x000 := by decide
theorem test_step_write_node_ignored :
    (after (step (withScript State.reset [.writeMem 2 510 5]))).map State.node = some [] := by decide

/-! ### Witnesses for the hypotheses of the obligations -/

/-- A tree of two leaves. -/
def twoLeaves : List Node := [.leaf 65 1, .leaf 66 2, .internal 3 0 1]

theorem twoLeaves_shape : TreeShape twoLeaves 2 where
  odd := rfl
  rootLast := rfl
  leaves i hi := by
    have hi : i < 2 := hi
    interval_cases i
    · exact ⟨65, 1, rfl⟩
    · exact ⟨66, 2, rfl⟩
  internals k hk hk' := by
    have hk : 2 ≤ k := hk
    have hk' : k < 3 := hk'
    obtain rfl : k = 2 := by omega
    exact ⟨0, 1, rfl, by decide, by decide, by decide⟩
  owned := by decide

theorem twoLeaves_ok : TreeOk (withTREE twoLeaves) := ⟨twoLeaves, by decide, twoLeaves_shape, by decide, by decide⟩

/-- A tree of one leaf. -/
theorem oneLeaf_shape : TreeShape [.leaf 65 4] 0 where
  odd := rfl
  rootLast := rfl
  leaves i hi := by
    have hi : i < 1 := hi
    interval_cases i
    exact ⟨65, 4, rfl⟩
  internals k hk hk' := by
    have hk : 1 ≤ k := hk
    have hk' : k < 1 := hk'
    omega
  owned := by decide

theorem oneLeaf_ok : TreeOk (withTREE [.leaf 65 4]) := ⟨[.leaf 65 4], by decide, oneLeaf_shape, by decide, by decide⟩

/-- The table of V1 and table γ are well-formed. -/
theorem ctV1_wf : WellFormedCT ctV1 := ⟨by decide, by decide, by decide, by decide⟩
theorem ctOne_wf : WellFormedCT ctOne := ⟨by decide, by decide, by decide, by decide⟩

/-- Largest fields of the default instance. -/
theorem witness_EntryFormatsRoundTrip : FtEntry.fits Params.standard ⟨255, 2 ^ 32 - 1⟩ ∧
    CtEntry.fits Params.standard ⟨255, 255, 2 ^ 255 - 1⟩ ∧ Node.fits Params.standard (.leaf 255 (2 ^ 40 - 1)) ∧
    Node.fits Params.standard (.internal (2 ^ 40 - 1) 511 511) ∧ 2 ^ 40 - 1 < 2 ^ ftWidth Params.standard ∧
    (255 * 2 ^ 8 + 255) * 2 ^ 255 + (2 ^ 255 - 1) < 2 ^ ctWidth Params.standard := by
  simp only [FtEntry.fits, CtEntry.fits, Node.fits]; decide

theorem witness_DecodeEncodeCommand : decodeWord 0x03 = .command .build := by decide
theorem witness_CodeStorageRoundTrip : 3 < 2 ^ 2 := by decide
theorem witness_ByteBitsRoundTrip : ([true, false, true, false, true, true, true, true] : Bits).length = 8 := by decide

/-- Both ends of the illegal words, and of the command words. -/
theorem witness_IllegalWord : (0 < 256 ∧ (0 = 0 ∨ 8 ≤ 0)) ∧ (8 < 256 ∧ (8 = 0 ∨ 8 ≤ 8)) ∧ 255 < 256 ∧ (255 = 0 ∨ 8 ≤ 255) := by decide
theorem witness_CommandWrite : (1 ≤ 1 ∧ 1 ≤ 7) ∧ 1 ≤ 7 ∧ 7 ≤ 7 := by decide

/-- A state in which ENCODE runs and the host has something to do next. -/
def running (a : HostAccess) : State := { State.reset with cmd := some 0x06, script := [a] }

theorem witness_StepRuns : (running (.readReg 1)).cmd = some 0x06 ∧ decodeWord 0x06 = .command .encode ∧
    (running (.readReg 1)).interrupted = false ∧ decodeTableWord 8 7 = some .decode := by decide

theorem witness_HostAccess : (withScript State.reset [.readReg 0]).cmd = none ∧ State.reset.cmd = none ∧ State.reset.script = [] := by
  decide

theorem witness_HeldAccess : (running (.writeReg 2 5)).cmd = some 0x06 ∧ (running (.writeReg 2 5)).script = [.writeReg 2 5] ∧
    HostAccess.duringCommand (.writeReg 2 5) = false ∧ ∃ t, step (running (.writeReg 2 5)) = .next t :=
  ⟨rfl, rfl, rfl, _, rfl⟩

theorem witness_Poll : (running .pollStatus).cmd = some 0x06 ∧ (running .pollStatus).script = [.pollStatus] := by decide
theorem witness_HardReset : (running .hardReset).script = [.hardReset] := by decide

/-- The largest values of the default instance. -/
theorem witness_HostLengthWrites : 2 ^ 32 - 1 < 2 ^ State.reset.par.lenW ∧ 256 ≤ State.reset.par.nsymMax ∧
    State.reset.par.oMax ≤ State.reset.par.oMax := by decide

theorem witness_HostReadOnlyWrites : 510 < State.reset.par.nodeMax ∧ 0 < State.reset.par.dMax := by decide

theorem witness_HostMemoryWrites : 2 ^ 32 - 2 < State.reset.par.nMax ∧ 255 < 2 ^ State.reset.par.symW ∧ 255 < State.reset.par.nsymMax ∧
    2 ^ 40 - 1 < 2 ^ (State.reset.par.symW + State.reset.par.lenW) ∧
    (255 * 2 ^ 8 + 255) * 2 ^ 255 + (2 ^ 255 - 1) < 2 ^ (2 * State.reset.par.symW + (2 ^ State.reset.par.symW - 1)) ∧
    0 < State.reset.par.oMax := by decide

theorem witness_HostOutOfRange : 10 < 11 ∧ memEntries State.reset.par 1 = some 256 ∧ 256 ≤ 256 ∧ State.reset.par.nsymMax < 257 ∧
    State.reset.par.oMax < State.reset.par.oMax + 1 := by decide

theorem witness_HostRegisterReads : (10, 0) ∈ [(0, 0), (1, (statusWord State.reset).toNat), (10, State.reset.dlen)] := by decide

theorem witness_HostMemoryReads : (withInput [65]).imem.read 0 = some 65 ∧ (withFT ftV1).ft.read 2 = some ⟨67, 4⟩ ∧
    (withTREE nodesV1).node.read 4 = some (.internal 9 2 3) ∧ Node.fits State.reset.par (.internal 9 2 3) ∧
    (withCT ctV1 [] [0x02]).ct.read 2 = some ⟨67, 1, 0⟩ ∧ Memory.read (withCT ctV1 [] [0x02]).omem 0 = some 0x02 ∧
    (withTREE nodesV1).node.read 0 = some (.leaf 65 2) ∧ State.reset.imem.read 0 = none ∧ State.reset.ft.read 255 = none ∧
    State.reset.node.read 510 = none ∧ State.reset.ct.read 255 = none ∧ Memory.read State.reset.omem 0 = none ∧
    State.reset.dmem.read 0 = none ∧ 255 < State.reset.par.nsymMax ∧ 510 < State.reset.par.nodeMax ∧
    (State.reset.putDEC [65]).dmem.read 0 = some 65 ∧ 0 < State.reset.par.dMax := by
  simp only [Node.fits]; decide

theorem witness_CountCompletes : (withInput inputV1).input = some inputV1 := by decide
theorem witness_CountFrame : ∃ t, exec .count (withInput inputV1) = .next t := ⟨_, rfl⟩
theorem witness_UnspecifiedInput : ({ State.reset with ilen := 1 } : State).input = none := by decide

/-- `C`, then an entry nothing has written; a payload without its header, and one without its last byte. -/
theorem witness_UnspecifiedInput_pack_decode : WellFormedCT ctV1 ∧ (withCT ctV1 [67] []).valid.ct = true ∧
    (withCT ctV1 [67] []).ctTable = some ctV1 ∧ (∀ e ∈ ([⟨67, 1, 0⟩] : List CtEntry), e ∈ ctV1) ∧ 1 < ({ withCT ctV1 [67] [] with ilen := 2 } : State).ilen ∧
    (withCT ctV1 [67] []).imem.readRange 0 1 = some (([⟨67, 1, 0⟩] : List CtEntry).map CtEntry.sym) ∧
    (withCT ctV1 [67] []).imem.read 1 = none ∧
    Memory.read ({ withCT ctV1 [] [] with olen := 1 } : State).omem 0 = none ∧
    Memory.read ({ withCT ctV1 [] [0x08] with olen := 2 } : State).omem 0 = some 0x08 ∧ (0x08 : Byte).toNat ≤ 8 ∧
    Memory.read ({ withCT ctV1 [] [0x08] with olen := 2 } : State).omem 1 = none := ⟨ctV1_wf, by decide⟩

theorem witness_MissingStructure : State.reset.valid.ft = false ∧ State.reset.valid.tree = false ∧ State.reset.valid.ct = false ∧
    ∃ t, exec .encode State.reset = .next t := ⟨rfl, rfl, rfl, _, rfl⟩
theorem witness_BuildEmptyInput : (withFT []).valid.ft = true ∧ (withFT []).ftn = 0 := by decide

theorem witness_IllFormedTables : (withFT [⟨65, 0⟩]).valid.ft = true ∧ (withFT [⟨65, 0⟩]).ftn ≠ 0 ∧
    (∀ table, (withFT [⟨65, 0⟩]).ftTable = some table → ¬ ((table.map FtEntry.sym).Nodup ∧ ∀ e ∈ table, 1 ≤ e.cnt)) ∧
    (withCT [⟨65, 0, 0⟩] [] []).valid.ct = true ∧
    (∀ table, (withCT [⟨65, 0, 0⟩] [] []).ctTable = some table → ¬ ((table.map CtEntry.sym).Nodup ∧
      (∀ e ∈ table, 1 ≤ e.len ∧ e.val < 2 ^ e.len) ∧
      table.Pairwise (fun a b => ¬ a.code <+: b.code ∧ ¬ b.code <+: a.code))) := by
  refine ⟨by decide, by decide, fun table h => ?_, by decide, fun table h => ?_⟩
  · obtain rfl : [⟨65, 0⟩] = table := Option.some.inj h
    rintro ⟨-, hc⟩
    exact absurd (hc ⟨65, 0⟩ (by decide)) (by decide)
  · obtain rfl : [⟨65, 0, 0⟩] = table := Option.some.inj h
    rintro ⟨-, hc, -⟩
    exact absurd (hc ⟨65, 0, 0⟩ (by decide)).1 (by decide)

theorem witness_BuildCompletes_and_BuildMergesLeastKeys : (withFT ftV1).valid.ft = true ∧ (withFT ftV1).ftTable = some ftV1 ∧ ftV1 ≠ [] ∧
    (ftV1.map FtEntry.sym).Nodup ∧ ∀ e ∈ ftV1, 1 ≤ e.cnt := by decide

/-- `COUNT` has just written the table. -/
theorem witness_BuildCompletes_after_count : ∃ s, exec .count (withInput inputV1) = .next s ∧ s.valid.ft = true ∧ s.ftTable = some ftV1 :=
  ⟨_, rfl, by decide, by decide⟩

theorem witness_BuildFrame : (∃ t, exec .build (withFT ftV1) = .next t) ∧ ∃ t, exec .build State.reset = .next t ∧ t.err ≠ .ok :=
  ⟨⟨_, rfl⟩, _, rfl, by decide⟩

theorem witness_AssignCompletes : (withTREE twoLeaves).valid.tree = true ∧ TreeOk (withTREE twoLeaves) ∧
    (withTREE twoLeaves).nodes = some twoLeaves ∧ (withTREE [.leaf 65 4]).valid.tree = true ∧ TreeOk (withTREE [.leaf 65 4]) ∧
    (withTREE [.leaf 65 4]).nodes = some [.leaf 65 4] :=
  ⟨rfl, twoLeaves_ok, by decide, rfl, oneLeaf_ok, by decide⟩

theorem witness_CodesAreComplete : ∃ t, TreeOk (withTREE twoLeaves) ∧ exec .assign (withTREE twoLeaves) = .next t ∧ t.err = .ok ∧
    t.ctTable = some [⟨65, 1, 0⟩, ⟨66, 1, 1⟩] ∧ 1 < ([⟨65, 1, 0⟩, ⟨66, 1, 1⟩] : List CtEntry).length :=
  ⟨_, twoLeaves_ok, rfl, by decide, by decide, by decide⟩

theorem witness_WeightedCodeLength :
    (∃ t, TreeOk (withTREE [.leaf 65 4]) ∧ (withTREE [.leaf 65 4]).nodes = some [.leaf 65 4] ∧
      exec .assign (withTREE [.leaf 65 4]) = .next t ∧ t.err = .ok ∧ t.ctTable = some [⟨65, 1, 0⟩]) ∧
    ∃ t, TreeOk (withTREE twoLeaves) ∧ (withTREE twoLeaves).nodes = some twoLeaves ∧
      exec .assign (withTREE twoLeaves) = .next t ∧ t.err = .ok ∧ t.ctTable = some [⟨65, 1, 0⟩, ⟨66, 1, 1⟩] :=
  ⟨⟨_, oneLeaf_ok, by decide, rfl, by decide, by decide⟩, _, twoLeaves_ok, by decide, rfl, by decide, by decide⟩

theorem witness_AssignFrame : (∃ t, exec .assign (withTREE twoLeaves) = .next t) ∧
    ∃ t, exec .assign State.reset = .next t ∧ t.err ≠ .ok := ⟨⟨_, rfl⟩, _, rfl, by decide⟩

theorem witness_StackWalk : walk (withTREE twoLeaves).node 3 2 [] = some [(0, ⟨65, 1, 0⟩), (1, ⟨66, 1, 1⟩)] := by decide

theorem witness_PackCompletes : WellFormedCT ctV1 ∧ (withCT ctV1 [67, 65] []).valid.ct = true ∧ (withCT ctV1 [67, 65] []).ctTable = some ctV1 ∧
    (∀ e ∈ ([⟨67, 1, 0⟩, ⟨65, 2, 2⟩] : List CtEntry), e ∈ ctV1) ∧
    (withCT ctV1 [67, 65] []).input = some (([⟨67, 1, 0⟩, ⟨65, 2, 2⟩] : List CtEntry).map CtEntry.sym) := ⟨ctV1_wf, by decide⟩

theorem witness_PackUncovered : WellFormedCT ctV1 ∧ (withCT ctV1 [67, 68] []).valid.ct = true ∧ (withCT ctV1 [67, 68] []).ctTable = some ctV1 ∧
    (∀ e ∈ ctV1, e.sym ≠ 68) ∧ ([⟨67, 1, 0⟩] : List CtEntry).length < (withCT ctV1 [67, 68] []).ilen ∧
    (∀ e ∈ ([⟨67, 1, 0⟩] : List CtEntry), e ∈ ctV1) ∧
    (withCT ctV1 [67, 68] []).imem.readRange 0 2 = some (([⟨67, 1, 0⟩] : List CtEntry).map CtEntry.sym ++ [68]) := ⟨ctV1_wf, by decide⟩

theorem witness_PackFrame : (∃ t, exec .pack (withCT ctV1 [67] []) = .next t ∧ t.err = .ok) ∧
    ∃ t, exec .pack State.reset = .next t ∧ t.err = .sequenceError := ⟨⟨_, rfl, by decide⟩, _, rfl, by decide⟩

theorem witness_EncodeCompletes_EncodeIsFourCommands_and_RoundTripEncodeDecode : (withInput [65, 66]).input = some [65, 66] ∧ ([65, 66] : List Sym) ≠ [] := by decide
theorem witness_EncodeEmptyInput : State.reset.ilen = 0 := by decide
theorem witness_EncodeFrame : (∃ t, exec .encode (withInput [65, 66]) = .next t ∧ t.err = .ok) ∧
    ∃ t, exec .encode State.reset = .next t ∧ t.err = .emptyInput := ⟨⟨_, rfl, by decide⟩, _, rfl, by decide⟩

theorem witness_EncodeDependsOnInputOnly : (withInput [65]).input = some [65] ∧ (withCT ctV1 [65] [0x08]).input = some [65] := by decide

/-- `C` then `A` with the largest padding the packer writes for three bits. -/
theorem witness_DecodeCompletes : WellFormedCT ctV1 ∧ (withCT ctV1 [] [0x05, 0x40]).valid.ct = true ∧
    (withCT ctV1 [] [0x05, 0x40]).ctTable = some ctV1 ∧
    (withCT ctV1 [] [0x05, 0x40]).payload = some [0x05, 0x40] ∧ (0x05 : Byte).toNat ≤ 8 ∧
    (0x05 : Byte).toNat ≤ 8 * ([0x40] : List Byte).length ∧
    (∀ e ∈ ([⟨67, 1, 0⟩, ⟨65, 2, 2⟩] : List CtEntry), e ∈ ctV1) ∧
    (([0x40] : List Byte).flatMap bitsOf).take (8 * 1 - 5) = ([⟨67, 1, 0⟩, ⟨65, 2, 2⟩] : List CtEntry).flatMap CtEntry.code := ⟨ctV1_wf, by decide⟩

theorem witness_DecodeHeaderErrors : WellFormedCT ctV1 ∧ (withCT ctV1 [] []).olen = 0 ∧ Memory.read (withCT ctV1 [] [0x09]).omem 0 = some 0x09 ∧
    (withCT ctV1 [] [0x09]).olen ≠ 0 ∧ 8 < (0x09 : Byte).toNat ∧ Memory.read (withCT ctV1 [] [0x01]).omem 0 = some 0x01 ∧
    (withCT ctV1 [] [0x01]).olen = 1 ∧ 0 < (0x01 : Byte).toNat ∧ (withCT ctV1 [] []).ctTable = some ctV1 ∧ (withCT ctV1 [] [0x09]).ctTable = some ctV1 ∧
    (withCT ctV1 [] [0x01]).ctTable = some ctV1 ∧ (withCT ctV1 [] []).valid.ct = true := ⟨ctV1_wf, by decide⟩

/-- W13: bits that end inside a code. -/
theorem witness_DecodeLeftover : WellFormedCT ctV1 ∧ (withCT ctV1 [] [0x07, 0x80]).payload = some [0x07, 0x80] ∧
    ((withCT ctV1 [] [0x07, 0x80]).valid.ct = true ∧ (withCT ctV1 [] [0x07, 0x80]).ctTable = some ctV1 ∧
      (0x07 : Byte).toNat ≤ 8 ∧ ∀ e ∈ ([] : List CtEntry), e ∈ ctV1) ∧
    (∃ e ∈ ctV1, [true] <+: e.code ∧ [true] ≠ e.code) ∧
    (([0x80] : List Byte).flatMap bitsOf).take (8 * 1 - 7) = ([] : List CtEntry).flatMap CtEntry.code ++ [true] :=
  ⟨ctV1_wf, by decide, by decide, ⟨⟨65, 2, 2⟩, by decide, ⟨[false], by decide⟩, by decide⟩, by decide⟩

/-- W20: bits no code can match, after three codes. -/
theorem witness_DecodeMismatch : WellFormedCT ctOne ∧ (withCT ctOne [] [0x04, 0x10]).valid.ct = true ∧ (0x04 : Byte).toNat ≤ 8 ∧
    (∀ e ∈ ([⟨65, 1, 0⟩, ⟨65, 1, 0⟩, ⟨65, 1, 0⟩] : List CtEntry), e ∈ ctOne) ∧ (withCT ctOne [] [0x04, 0x10]).ctTable = some ctOne ∧
    (withCT ctOne [] [0x04, 0x10]).payload = some [0x04, 0x10] ∧ (∀ e ∈ ctOne, ¬ ([] ++ [true]) <+: e.code) ∧
    (([0x10] : List Byte).flatMap bitsOf).take (8 * 1 - 4) =
      ([⟨65, 1, 0⟩, ⟨65, 1, 0⟩, ⟨65, 1, 0⟩] : List CtEntry).flatMap CtEntry.code ++ [] ++ [true] ++ [] := ⟨ctOne_wf, by decide⟩

theorem witness_DecodeAlwaysEnds : WellFormedCT ctV1 ∧ (withCT ctV1 [] [0x01, 0xAF]).ctTable = some ctV1 ∧ (withCT ctV1 [] [0x01, 0xAF]).valid.ct = true ∧
    (withCT ctV1 [] [0x01, 0xAF]).payload = some [0x01, 0xAF] := ⟨ctV1_wf, by decide⟩

theorem witness_DecodeFrame : (∃ t, exec .decode (withCT ctV1 [] [0x02, 0xAF, 0xC0]) = .next t) ∧
    ∃ t, State.reset.valid.ct = false ∧ exec .decode State.reset = .next t := ⟨⟨_, rfl⟩, _, rfl, rfl⟩

theorem witness_RoundTripPackDecode : ∃ t, exec .pack (withCT ctV1 inputV1 []) = .next t ∧ t.err = .ok := ⟨_, rfl, by decide⟩
theorem witness_RetryFailsIdentically : (∃ t, exec .build (withFT []) = .next t ∧ t.err ≠ .ok) ∧
    (∃ t, exec .assign State.reset = .next t ∧ t.err ≠ .ok) ∧ (∃ t, exec .pack (withCT ctV1 [68] []) = .next t ∧ t.err ≠ .ok) ∧
    (∃ t, exec .encode State.reset = .next t ∧ t.err ≠ .ok) ∧ ∃ t, exec .decode (withCT ctV1 [] [0x09]) = .next t ∧ t.err ≠ .ok :=
  ⟨⟨_, rfl, by decide⟩, ⟨_, rfl, by decide⟩, ⟨_, rfl, by decide⟩, ⟨_, rfl, by decide⟩, _, rfl, by decide⟩

/-! A state that meets each invariant and from which a step takes an access or runs a command. -/

theorem witness_StepKeepsCanonicalMemories : ∃ t, Canonical (running (.readReg 1)) ∧ step (running (.readReg 1)) = .next t :=
  ⟨_, ⟨rfl, rfl, rfl, rfl, rfl, rfl⟩, rfl⟩

theorem witness_StepKeepsTree : ∃ t, TreeInv (withScript (withTREE twoLeaves) [.readReg 1]) ∧
    (withScript (withTREE twoLeaves) [.readReg 1]).valid.tree = true ∧
    step (withScript (withTREE twoLeaves) [.readReg 1]) = .next t := ⟨_, fun _ => twoLeaves_ok, rfl, rfl⟩

theorem witness_StepKeepsChainAndErrorCode : ∃ t, ChainInv (withScript (withTREE twoLeaves) [.readReg 1]) ∧
    ErrInv (withScript (withTREE twoLeaves) [.readReg 1]) ∧
    step (withScript (withTREE twoLeaves) [.readReg 1]) = .next t :=
  ⟨_, ⟨fun _ => rfl, fun h => absurd h (by decide)⟩, by unfold ErrInv; decide, rfl⟩

/-- With a valid `DEC`. -/
theorem witness_StepKeepsOutputs : ∃ t, OutputInv (withScript (State.reset.putDEC [65]) [.readReg 1]) ∧
    (withScript (State.reset.putDEC [65]) [.readReg 1]).valid.dec = true ∧
    step (withScript (State.reset.putDEC [65]) [.readReg 1]) = .next t :=
  ⟨_, ⟨fun h => absurd h (by decide), fun _ => by decide⟩, rfl, rfl⟩

theorem witness_StepKeepsParameters : ∃ t, step (withScript State.reset [.writeReg 2 5]) = .next t := ⟨_, rfl⟩

theorem inRange_small : InRange (withScript State.reset [.writeReg 2 5]) where
  ilen := by decide
  ftn := by decide
  noden := by decide
  root := by decide
  ctn := by decide
  bitlen := by decide
  pad := by decide
  olen := by decide
  dlen := by decide
  imem := by decide
  ft := fun _ h => absurd h (by simp [withScript, State.reset, State.resetOf])
  node := fun _ h => absurd h (by simp [withScript, State.reset, State.resetOf])
  ct := fun _ h => absurd h (by simp [withScript, State.reset, State.resetOf])
  omem := by decide
  dmem := by decide

theorem witness_StepKeepsRanges : ∃ t, 1 ≤ State.reset.par.symW ∧ TreeInv (withScript State.reset [.writeReg 2 5]) ∧
    InRange (withScript State.reset [.writeReg 2 5]) ∧ step (withScript State.reset [.writeReg 2 5]) = .next t :=
  ⟨_, by decide, fun h => absurd h (by decide), inRange_small, rfl⟩

end Sys2Proof.Tests
end

section
/-! LEMMAS. Bit strings as numbers and bytes (00_scope.md R14, R15): `bitsVal` and `bitsStr` are inverse at every length, and the byte forms
`byteOf` and `bitsOf` are their length-8 case. -/

namespace Sys2Proof.Machine

@[simp] theorem bitsVal_nil : bitsVal [] = 0 := rfl

/-- The value read so far, shifted past the rest of the string, is added to the value of the rest. -/
theorem foldl_bitsVal (b : Bits) (a : Nat) :
    b.foldl (fun a x => 2 * a + x.toNat) a = 2 ^ b.length * a + bitsVal b := by
  induction b generalizing a with
  | nil => simp
  | cons x b ih =>
    rw [bitsVal, List.foldl_cons, List.foldl_cons, ih, ih (2 * 0 + x.toNat), List.length_cons]
    ring

theorem bitsVal_cons (x : Bool) (b : Bits) : bitsVal (x :: b) = 2 ^ b.length * x.toNat + bitsVal b := by
  rw [bitsVal, List.foldl_cons, foldl_bitsVal, Nat.mul_zero, Nat.zero_add]

theorem bitsVal_lt (b : Bits) : bitsVal b < 2 ^ b.length := by
  induction b with
  | nil => simp
  | cons x b ih =>
    rw [bitsVal_cons, List.length_cons, Nat.pow_succ]
    cases x <;> simp <;> omega

/-- The value of a bit string is the sum of its bits' weights, the first bit the heaviest. -/
theorem bitsVal_eq_sum (b : Bits) :
    bitsVal b = ∑ k ∈ Finset.range b.length, (b.getD k false).toNat * 2 ^ (b.length - 1 - k) := by
  induction b with
  | nil => rfl
  | cons x b ih =>
    rw [bitsVal_cons, ih, List.length_cons, Finset.sum_range_succ', Nat.add_comm, Nat.mul_comm]
    simp [Nat.sub_sub, Nat.add_comm]

@[simp] theorem length_bitsStr (n v : Nat) : (bitsStr n v).length = n := by
  induction n with
  | zero => rfl
  | succ n ih => simp [bitsStr, ih]

theorem getElem?_bitsStr (v : Nat) {n k : Nat} (h : k < n) : (bitsStr n v)[k]? = some (v.testBit (n - 1 - k)) := by
  induction n generalizing k with
  | zero => omega
  | succ n ih =>
    cases k with
    | zero => simp [bitsStr]
    | succ k =>
      rw [bitsStr, List.getElem?_cons_succ, ih (by omega)]
      congr 2
      omega

/-- Only the bits below `n` count. -/
theorem bitsStr_congr {n u v : Nat} (h : ∀ k < n, u.testBit k = v.testBit k) : bitsStr n u = bitsStr n v := by
  induction n with
  | zero => rfl
  | succ n ih => rw [bitsStr, bitsStr, h n (by omega), ih fun k hk => h k (by omega)]

/-- R15: `val` inverts `str`, up to the bits that `str` drops. -/
theorem bitsVal_bitsStr (n v : Nat) : bitsVal (bitsStr n v) = v % 2 ^ n := by
  induction n with
  | zero => simp [bitsStr, Nat.mod_one]
  | succ n ih =>
    rw [bitsStr, bitsVal_cons, ih, length_bitsStr, Nat.toNat_testBit, Nat.mod_pow_succ, Nat.add_comm]

/-- R15: `str` inverts `val`. -/
theorem bitsStr_bitsVal (b : Bits) : bitsStr b.length (bitsVal b) = b := by
  induction b with
  | nil => rfl
  | cons x b ih =>
    have bit := Nat.testBit_two_pow_mul_add x.toNat (bitsVal_lt b)
    have head : (bitsVal (x :: b)).testBit b.length = x := by
      rw [bitsVal_cons, bit]
      cases x <;> simp
    have tail : bitsStr b.length (bitsVal (x :: b)) = b := by
      rw [bitsVal_cons]
      exact (bitsStr_congr fun k hk => by rw [bit, if_pos hk]).trans ih
    rw [List.length_cons, bitsStr, head, tail]

@[simp] theorem length_bitsOf (v : Byte) : (bitsOf v).length = 8 := length_bitsStr 8 v.toNat

theorem getElem?_bitsOf (v : Byte) {k : Nat} (h : k < 8) : (bitsOf v)[k]? = some (v.getLsbD (7 - k)) := by
  rw [bitsOf, getElem?_bitsStr _ h, BitVec.testBit_toNat]

@[simp] theorem byteOf_bitsOf (v : Byte) : byteOf (bitsOf v) = v := by
  rw [byteOf, bitsOf, bitsVal_bitsStr, Nat.mod_eq_of_lt v.isLt, BitVec.ofNat_toNat, BitVec.setWidth_eq]

/-- A string of 8 bits fits a byte, so no bit of its number is lost. -/
theorem toNat_byteOf {b : Bits} (h : b.length = 8) : (byteOf b).toNat = bitsVal b := by
  have lt := bitsVal_lt b
  rw [h] at lt
  rw [byteOf, BitVec.toNat_ofNat, Nat.mod_eq_of_lt lt]

theorem bitsOf_byteOf {b : Bits} (h : b.length = 8) : bitsOf (byteOf b) = b := by
  rw [bitsOf, toNat_byteOf h, ← h, bitsStr_bitsVal]

/-- Settles O5: the length-8 case of the laws of `bitsStr` and `bitsVal`. -/
theorem byteBitsRoundTrip : Obligations.ByteBitsRoundTrip := by
  unfold Obligations.ByteBitsRoundTrip
  refine ⟨fun v => ⟨byteOf_bitsOf v, length_bitsOf v, fun _ => getElem?_bitsOf v⟩, fun b h => ⟨bitsOf_byteOf h, ?_⟩⟩
  rw [toNat_byteOf h, bitsVal_eq_sum, h]

end Sys2Proof.Machine
end

section
/-! LEMMAS. The code of a `CT` entry (30_encoding.md R92): `codeEntry` stores the length and the number of a bit string, and `CtEntry.code` reads
the string back. -/

namespace Sys2Proof.Machine

@[simp] theorem codeEntry_sym (x : Sym) (b : Bits) : (codeEntry x b).sym = x := rfl
@[simp] theorem codeEntry_len (x : Sym) (b : Bits) : (codeEntry x b).len = b.length := rfl

theorem codeEntry_val_lt (x : Sym) (b : Bits) : (codeEntry x b).val < 2 ^ b.length := bitsVal_lt b

@[simp] theorem codeEntry_code (x : Sym) (b : Bits) : (codeEntry x b).code = b := bitsStr_bitsVal b

/-- The code is what the entry's number reads back as, so its bits are the number's bits, from bit `len - 1` down. -/
theorem getElem?_eq_testBit_codeEntry_val (x : Sym) (b : Bits) {k : Nat} (h : k < b.length) :
    b[k]? = some ((codeEntry x b).val.testBit (b.length - 1 - k)) :=
  calc b[k]? = (codeEntry x b).code[k]? := by rw [codeEntry_code]
    _ = some ((codeEntry x b).val.testBit (b.length - 1 - k)) := getElem?_bitsStr _ h

theorem bitsVal_bitsStr_of_lt {n v : Nat} (h : v < 2 ^ n) : bitsVal (bitsStr n v) = v := by
  rw [bitsVal_bitsStr, Nat.mod_eq_of_lt h]

/-- Settles O4: the laws of `codeEntry`, which are those of `bitsVal` and `bitsStr` at the code's own length. -/
theorem codeStorageRoundTrip : Obligations.CodeStorageRoundTrip := by
  unfold Obligations.CodeStorageRoundTrip
  exact ⟨fun x b => ⟨codeEntry_sym x b, codeEntry_len x b, codeEntry_val_lt x b, codeEntry_code x b,
      fun _ => getElem?_eq_testBit_codeEntry_val x b⟩,
    fun n v h => ⟨bitsVal_bitsStr_of_lt h, length_bitsStr n v⟩⟩

end Sys2Proof.Machine
end

section
/-! LEMMAS. Illegal command words (30_encoding.md R88, 60_exceptions.md R218): which words they are and what a write of one to `CMD` does. -/

namespace Sys2Proof.Machine

/-- R88: the word 0 and every word with a bit above bit 2 set are illegal. -/
theorem decodeWord_illegal {w : Byte} (h : w.toNat = 0 ∨ 8 ≤ w.toNat) : ∃ why, decodeWord w = .illegal why := by
  unfold decodeWord
  split
  case h_1 => exact ⟨_, rfl⟩
  case h_9 => exact ⟨_, rfl⟩
  all_goals omega

/-- R220: the row of `IllegalCommand` has no effect but the code. -/
theorem raiseError_illegalCommand (s : State) : raiseError s .illegalCommand = { s with err := .illegalCommand } := rfl

/-- R88, R218: a write of a word that does not decode starts nothing and raises `IllegalCommand`. -/
theorem writeCMD_of_illegal (s : State) {v : Nat} {why : IllegalWord} (lt : v < 256)
    (h : decodeWord (BitVec.ofNat 8 v) = .illegal why) : writeCMD s v = .next (raiseError s .illegalCommand) := by
  rw [writeCMD, if_neg (Nat.not_le.2 lt), h]

/-- Settles O6: register 0 is `CMD`, and its write meets a word that does not decode. -/
theorem illegalWordRaisesIllegalCommand : Obligations.IllegalWordRaisesIllegalCommand := by
  unfold Obligations.IllegalWordRaisesIllegalCommand
  refine ⟨rfl, fun s v lt h => ?_⟩
  have same : (BitVec.ofNat 8 v).toNat = v := by rw [BitVec.toNat_ofNat, Nat.mod_eq_of_lt lt]
  obtain ⟨why, hw⟩ := decodeWord_illegal (w := BitVec.ofNat 8 v) (by rwa [same])
  calc hostAccess s (.writeReg 0 v) = writeCMD s v := rfl
    _ = .next (raiseError s .illegalCommand) := writeCMD_of_illegal s lt hw
    _ = .next { s with err := .illegalCommand } := by rw [raiseError_illegalCommand]

end Sys2Proof.Machine
end

section
/-! LEMMAS. `COUNT` (40_frequency_counter.md R116, R117). `countTable` in closed form: the distinct symbols of the input in order of first
occurrence, which is `List.eraseDups`, each with its number of occurrences. The properties of R117 are read off from it. -/

namespace Sys2Proof.Machine

/-! ### Distinct symbols in order of first occurrence -/

theorem eraseDups_append_of_mem {input : List Sym} {x : Sym} (h : x ∈ input) :
    (input ++ [x]).eraseDups = input.eraseDups := by
  rw [List.eraseDups_append, List.removeAll]
  simp [h]

theorem eraseDups_append_of_notMem {input : List Sym} {x : Sym} (h : x ∉ input) :
    (input ++ [x]).eraseDups = input.eraseDups ++ [x] := by
  rw [List.eraseDups_append, List.removeAll]
  simp [h, List.eraseDups_cons]

/-- Each new symbol first occurs after everything before it. -/
theorem sortedLT_idxOf_eraseDups (input : List Sym) : (input.eraseDups.map input.idxOf).SortedLT := by
  induction input using List.reverseRecOn with
  | nil => simp [List.sortedLT_iff_pairwise]
  | append_singleton input x ih =>
    have earlier : input.eraseDups.map (input ++ [x]).idxOf = input.eraseDups.map input.idxOf :=
      List.map_congr_left fun y hy => List.idxOf_append_of_mem (List.mem_eraseDups.1 hy)
    by_cases hx : x ∈ input
    · rwa [eraseDups_append_of_mem hx, earlier]
    · have last : (input ++ [x]).idxOf x = input.length := by simp [List.idxOf_append_of_notMem hx]
      rw [eraseDups_append_of_notMem hx, List.map_append, earlier, List.sortedLT_iff_pairwise, List.pairwise_append]
      refine ⟨ih.pairwise, List.pairwise_singleton _ _, fun a ha b hb => ?_⟩
      obtain ⟨y, hy, rfl⟩ := List.mem_map.1 ha
      rw [List.map_singleton, List.mem_singleton] at hb
      rw [hb, last]
      exact List.idxOf_lt_length_of_mem (List.mem_eraseDups.1 hy)

theorem nodup_eraseDups (input : List Sym) : input.eraseDups.Nodup :=
  (sortedLT_idxOf_eraseDups input).nodup.of_map _

theorem sum_count_eraseDups (input : List Sym) : (input.eraseDups.map input.count).sum = input.length := by
  have same : input.eraseDups.Perm input.dedup :=
    (List.perm_ext_iff_of_nodup (nodup_eraseDups input) (List.nodup_dedup input)).2 fun x => by simp
  rw [(same.map input.count).sum_eq, List.sum_map_count_dedup_eq_length]

/-! ### The table -/

/-- R117 (c): the entry of a symbol of the input. -/
def countEntry (input : List Sym) (x : Sym) : FtEntry := { sym := x, cnt := input.count x }

@[simp] theorem countEntry_sym (input : List Sym) (x : Sym) : (countEntry input x).sym = x := rfl
@[simp] theorem countEntry_cnt (input : List Sym) (x : Sym) : (countEntry input x).cnt = input.count x := rfl

theorem countEntry_append_same (input : List Sym) (x : Sym) :
    countEntry (input ++ [x]) x = { sym := x, cnt := input.count x + 1 } := by
  simp [countEntry]

theorem countEntry_append_other (input : List Sym) {x y : Sym} (h : x ≠ y) :
    countEntry (input ++ [x]) y = countEntry input y := by
  simp [countEntry, h]

theorem map_countEntry_append_of_notMem (input : List Sym) {xs : List Sym} {x : Sym} (h : x ∉ xs) :
    xs.map (countEntry (input ++ [x])) = xs.map (countEntry input) :=
  List.map_congr_left fun _ hy => countEntry_append_other input fun same => h (same ▸ hy)

theorem countSymbol_cons_same {e : FtEntry} {x : Sym} (h : e.sym = x) (rest : List FtEntry) :
    countSymbol (e :: rest) x = { e with cnt := e.cnt + 1 } :: rest := if_pos h

theorem countSymbol_cons_other {e : FtEntry} {x : Sym} (h : e.sym ≠ x) (rest : List FtEntry) :
    countSymbol (e :: rest) x = e :: countSymbol rest x := if_neg h

/-- R116, the loop body on a symbol the table lacks. -/
theorem countSymbol_of_notMem {table : List FtEntry} {x : Sym} (h : x ∉ table.map FtEntry.sym) :
    countSymbol table x = table ++ [{ sym := x, cnt := 1 }] := by
  induction table with
  | nil => rfl
  | cons e rest ih =>
    rw [List.map_cons, List.mem_cons, not_or] at h
    rw [countSymbol_cons_other (Ne.symm h.1), ih h.2, List.cons_append]

/-- R116, the loop body on a symbol the table has: the one entry of that symbol takes the new occurrence in. -/
theorem countSymbol_of_mem (input : List Sym) {xs : List Sym} {x : Sym} (distinct : xs.Nodup) (h : x ∈ xs) :
    countSymbol (xs.map (countEntry input)) x = xs.map (countEntry (input ++ [x])) := by
  induction xs with
  | nil => cases h
  | cons y ys ih =>
    obtain ⟨hy, hys⟩ := List.nodup_cons.1 distinct
    rw [List.map_cons, List.map_cons]
    by_cases same : y = x
    · subst same
      rw [countSymbol_cons_same (countEntry_sym input y), countEntry_append_same, map_countEntry_append_of_notMem input hy]
      rfl
    · have later : x ∈ ys := List.mem_of_ne_of_mem (Ne.symm same) h
      rw [countSymbol_cons_other same, countEntry_append_other input (Ne.symm same), ih hys later]

@[simp] theorem map_sym_map_countEntry (input xs : List Sym) : (xs.map (countEntry input)).map FtEntry.sym = xs := by
  simp [Function.comp_def]

/-- The loop of R116 in closed form, by induction on the symbols read so far. -/
theorem countTable_eq (input : List Sym) : countTable input = input.eraseDups.map (countEntry input) := by
  induction input using List.reverseRecOn with
  | nil => rfl
  | append_singleton input x ih =>
    have step : countTable (input ++ [x]) = countSymbol (countTable input) x := by simp [countTable]
    rw [step, ih]
    by_cases hx : x ∈ input
    · rw [countSymbol_of_mem input (nodup_eraseDups input) (List.mem_eraseDups.2 hx), eraseDups_append_of_mem hx]
    · have fresh : x ∉ input.eraseDups := fun h => hx (List.mem_eraseDups.1 h)
      have one : countEntry (input ++ [x]) x = { sym := x, cnt := 1 } := by
        rw [countEntry_append_same, List.count_eq_zero_of_not_mem hx]
      rw [countSymbol_of_notMem (by rwa [map_sym_map_countEntry]), eraseDups_append_of_notMem hx, List.map_append,
        List.map_singleton, one, map_countEntry_append_of_notMem input fresh]

/-! ### R117 -/

@[simp] theorem map_sym_countTable (input : List Sym) : (countTable input).map FtEntry.sym = input.eraseDups := by
  rw [countTable_eq, map_sym_map_countEntry]

theorem mem_countTable_iff (input : List Sym) (e : FtEntry) :
    e ∈ countTable input ↔ 1 ≤ e.cnt ∧ input.count e.sym = e.cnt := by
  rw [countTable_eq, List.mem_map]
  constructor
  · rintro ⟨x, hx, rfl⟩
    exact ⟨List.count_pos_iff.2 (List.mem_eraseDups.1 hx), rfl⟩
  · rintro ⟨pos, occurs⟩
    have hx : e.sym ∈ input := List.count_pos_iff.1 (occurs ▸ pos)
    exact ⟨e.sym, List.mem_eraseDups.2 hx, by rw [countEntry, occurs]⟩

theorem sum_cnt_countTable (input : List Sym) : ((countTable input).map FtEntry.cnt).sum = input.length := by
  calc ((countTable input).map FtEntry.cnt).sum = (input.eraseDups.map input.count).sum := by
        rw [countTable_eq, List.map_map]; rfl
    _ = input.length := sum_count_eraseDups input

theorem countTable_lt_iff_idxOf_lt {input : List Sym} {i j : Nat} {a b : FtEntry} (hi : (countTable input)[i]? = some a)
    (hj : (countTable input)[j]? = some b) : i < j ↔ input.idxOf a.sym < input.idxOf b.sym := by
  have sorted : (((countTable input).map FtEntry.sym).map input.idxOf).SortedLT := by
    rw [map_sym_countTable]; exact sortedLT_idxOf_eraseDups input
  obtain ⟨li, rfl⟩ := List.getElem?_eq_some_iff.1 hi
  obtain ⟨lj, rfl⟩ := List.getElem?_eq_some_iff.1 hj
  have order := sorted.getElem_lt_getElem_iff (i := i) (j := j) (hi := by simpa only [List.length_map] using li)
    (hj := by simpa only [List.length_map] using lj)
  simpa only [List.getElem_map] using order.symm

/-- R116: `COUNT` on a written input. -/
theorem exec_count_of_input {s : State} {input : List Sym} (h : s.input = some input) :
    exec .count s = .next ((s.putFT (countTable input)).setErr .ok).goIdle := by
  calc exec .count s = (countBody s).outcome := rfl
    _ = (endOk (s.putFT (countTable input))).outcome := by rw [countBody, h]
    _ = .next ((s.putFT (countTable input)).setErr .ok).goIdle := rfl

/-- Settles O23: `COUNT` writes `countTable input`, whose properties are those of the closed form. -/
theorem countCompletes : Obligations.CountCompletes := by
  unfold Obligations.CountCompletes
  intro s input h
  have len : input.length = s.ilen := Memory.readRange_length h
  refine ⟨_, countTable input, exec_count_of_input h, fun i => ?_, rfl, ?_, mem_countTable_iff input,
    len ▸ sum_cnt_countTable input, fun _ _ _ _ => countTable_lt_iff_idxOf_lt, rfl⟩
  · simp [State.putFT, Memory.read_entriesFrom]
  · rw [map_sym_countTable]; exact nodup_eraseDups input

end Sys2Proof.Machine
end

section
/-! LEMMAS. The priority queue of `BUILD` (41_tree_builder.md R128 to R131): its order is strict, and an insert of a key with a new, largest index
keeps the queue in rising order. -/

namespace Sys2Proof.Machine

/-! ### The order of keys -/

theorem Key.less_iff (a b : Key) : a.less b = true ↔ a.freq < b.freq ∨ a.freq = b.freq ∧ a.idx < b.idx := by
  simp [Key.less]

theorem Key.less_trans {a b c : Key} (hab : a.less b = true) (hbc : b.less c = true) : a.less c = true := by
  rw [Key.less_iff] at *
  omega

theorem Key.not_less_self (a : Key) : ¬ a.less a = true := by
  rw [Key.less_iff]
  omega

/-- R129: keys with different indices are ordered one way or the other. -/
theorem Key.less_of_not_less {a b : Key} (h : ¬ b.less a = true) (older : a.idx < b.idx) : a.less b = true := by
  rw [Key.less_iff] at *
  omega

/-! ### Inserting -/

theorem pqInsert_perm (k : Key) (pq : List Key) : (pqInsert k pq).Perm (k :: pq) := by
  induction pq with
  | nil => exact .refl _
  | cons x rest ih =>
    unfold pqInsert
    split
    · exact .refl _
    · exact (ih.cons x).trans (.swap k x rest)

/-- R131: the queue is in rising order, so its head is what `PQ.popmin` returns. -/
def Rising (pq : List Key) : Prop := pq.Pairwise fun a b => a.less b = true

theorem rising_pqInsert {k : Key} {pq : List Key} (h : Rising pq) (older : ∀ x ∈ pq, x.idx < k.idx) :
    Rising (pqInsert k pq) := by
  induction pq with
  | nil => exact List.pairwise_singleton _ k
  | cons x rest ih =>
    obtain ⟨xLeast, restRising⟩ := List.pairwise_cons.1 h
    obtain ⟨xOlder, restOlder⟩ := List.forall_mem_cons.1 older
    unfold pqInsert
    split
    case isTrue kx =>
      exact List.pairwise_cons.2 ⟨List.forall_mem_cons.2 ⟨kx, fun y hy => Key.less_trans kx (xLeast y hy)⟩, h⟩
    case isFalse kx =>
      refine List.pairwise_cons.2 ⟨fun y hy => ?_, ih restRising restOlder⟩
      rcases List.mem_cons.1 ((pqInsert_perm k rest).mem_iff.1 hy) with rfl | hy
      · exact Key.less_of_not_less kx xOlder
      · exact xLeast y hy

/-! ### Inserting the leaves -/

/-- R128: the key of a table entry at its index. -/
def leafKey (e : FtEntry × Nat) : Key := { freq := e.1.cnt, idx := e.2 }

theorem insertLeaves_perm (pq : List Key) (i : Nat) (table : List FtEntry) :
    (insertLeaves pq i table).Perm ((table.zipIdx i).map leafKey ++ pq) := by
  induction table generalizing pq i with
  | nil => exact .refl _
  | cons e rest ih =>
    have first : (pqInsert (leafKey (e, i)) pq).Perm (leafKey (e, i) :: pq) := pqInsert_perm _ pq
    exact (ih _ _).trans ((first.append_left _).trans List.perm_middle)

theorem rising_insertLeaves {pq : List Key} {i : Nat} (table : List FtEntry) (h : Rising pq) (older : ∀ x ∈ pq, x.idx < i) :
    Rising (insertLeaves pq i table) := by
  induction table generalizing pq i with
  | nil => exact h
  | cons e rest ih =>
    refine ih (rising_pqInsert h older) fun x hx => ?_
    rcases List.mem_cons.1 ((pqInsert_perm _ pq).mem_iff.1 hx) with rfl | hx
    · exact Nat.lt_succ_self i
    · exact Nat.lt_succ_of_lt (older x hx)

/-- R128: the queue before the first merge holds one key for each table entry. -/
theorem insertLeaves_nil_perm (table : List FtEntry) : (insertLeaves [] 0 table).Perm (table.zipIdx.map leafKey) := by
  simpa using insertLeaves_perm [] 0 table

theorem map_idx_leafKey (table : List FtEntry) : (table.zipIdx.map leafKey).map Key.idx = List.range table.length :=
  calc (table.zipIdx.map leafKey).map Key.idx = table.zipIdx.map Prod.snd := List.map_map
    _ = List.range table.length := by rw [List.zipIdx_map_snd, List.range_eq_range']

theorem map_freq_leafKey (table : List FtEntry) : (table.zipIdx.map leafKey).map Key.freq = table.map FtEntry.cnt :=
  calc (table.zipIdx.map leafKey).map Key.freq = (table.zipIdx.map Prod.fst).map FtEntry.cnt := by
        rw [List.map_map, List.map_map]; rfl
    _ = table.map FtEntry.cnt := by rw [List.zipIdx_map_fst]

end Sys2Proof.Machine
end

section
/-! LEMMAS. The merge loop of `BUILD` (41_tree_builder.md R132 to R134): the arenas and queues it goes through, and what holds of each of them. -/

namespace Sys2Proof.Machine

/-! ### The key of a node in a growing arena -/

theorem keyAt_append {nodes : List Node} {i : Nat} (h : i < nodes.length) (more : List Node) :
    keyAt (nodes ++ more) i = keyAt nodes i := by
  rw [keyAt, List.getElem?_append_left h, keyAt]

theorem keyAt_append_length (nodes : List Node) (a b : Key) :
    keyAt (nodes ++ [parentOf a b]) nodes.length = { freq := a.freq + b.freq, idx := nodes.length } := by
  simp [keyAt, parentOf, Node.freq]

theorem keyAt_leaves {table : List FtEntry} {i : Nat} {e : FtEntry} (h : table[i]? = some e) :
    keyAt (table.map leafOf) i = { freq := e.cnt, idx := i } := by
  simp [keyAt, h, leafOf, Node.freq]

theorem childIndices_leaves (table : List FtEntry) : childIndices (table.map leafOf) = [] := by
  simp [childIndices, leafOf, Node.children]

theorem childIndices_append_parentOf (nodes : List Node) (a b : Key) :
    childIndices (nodes ++ [parentOf a b]) = childIndices nodes ++ [a.idx, b.idx] := by
  simp [childIndices, parentOf, Node.children]

/-! ### The arenas and queues of the loop -/

/-- `Merging table nodes pq`: `BUILD` on the table goes through the arena `nodes` with the queue `pq`: it starts from the leaves (R128), and
each merge step takes the two keys at the head of the queue (R132). -/
inductive Merging (table : List FtEntry) : List Node → List Key → Prop
  | leaves : Merging table (table.map leafOf) (insertLeaves [] 0 table)
  | merge {nodes : List Node} {a b : Key} {rest : List Key} (h : Merging table nodes (a :: b :: rest)) :
      Merging table (nodes ++ [parentOf a b]) (pqInsert { freq := a.freq + b.freq, idx := nodes.length } rest)

/-- R134: with enough fuel the loop merges until one key is left. -/
theorem Merging.mergeLoop_ends {table : List FtEntry} {nodes : List Node} {pq : List Key} {fuel : Nat}
    (h : Merging table nodes pq) (nonempty : pq ≠ []) (enough : pq.length ≤ fuel + 1) :
    ∃ arena k, mergeLoop fuel nodes pq = (arena, [k]) ∧ Merging table arena [k] := by
  induction fuel generalizing nodes pq with
  | zero =>
    obtain ⟨k, rfl⟩ : ∃ k, pq = [k] := List.length_eq_one_iff.1
      (Nat.le_antisymm enough (List.length_pos_iff.2 nonempty))
    exact ⟨nodes, k, rfl, h⟩
  | succ fuel ih =>
    match pq with
    | [k] => exact ⟨nodes, k, rfl, h⟩
    | a :: b :: rest =>
      have perm := pqInsert_perm { freq := a.freq + b.freq, idx := nodes.length } rest
      refine ih h.merge (fun empty => ?_) ?_
      · rw [empty] at perm
        exact absurd perm.symm.eq_nil (List.cons_ne_nil _ _)
      · rw [perm.length_eq]
        simpa using enough

/-- R137: the arena and the root that `BUILD` writes are those of the loop's end. -/
theorem exists_buildTree_eq {table : List FtEntry} (nonempty : table ≠ []) :
    ∃ nodes k, buildTree table = (nodes, k.idx) ∧ Merging table nodes [k] := by
  have length : (insertLeaves [] 0 table).length = table.length := by
    rw [(insertLeaves_nil_perm table).length_eq, List.length_map, List.length_zipIdx]
  have pos : 0 < table.length := List.length_pos_iff.2 nonempty
  obtain ⟨nodes, k, ends, h⟩ := (Merging.leaves (table := table)).mergeLoop_ends (fuel := table.length)
    (List.length_pos_iff.1 (by omega)) (by omega)
  exact ⟨nodes, k, by rw [buildTree, ends], h⟩

/-! ### What holds of every arena and queue of the loop -/

section
variable {table : List FtEntry} {nodes : List Node} {pq : List Key}

/-- R132: every node allocated so far is either the child of one node or in the queue, once. -/
theorem Merging.owned_or_queued (h : Merging table nodes pq) :
    (childIndices nodes ++ pq.map Key.idx).Perm (List.range nodes.length) := by
  induction h with
  | leaves =>
    rw [childIndices_leaves, List.nil_append, List.length_map, ← map_idx_leafKey]
    exact (insertLeaves_nil_perm table).map Key.idx
  | @merge nodes a b rest _ ih =>
    have push : ((pqInsert { freq := a.freq + b.freq, idx := nodes.length } rest).map Key.idx).Perm
        (nodes.length :: rest.map Key.idx) := (pqInsert_perm _ rest).map Key.idx
    rw [childIndices_append_parentOf, List.length_append, List.length_singleton, List.range_succ]
    calc List.Perm (childIndices nodes ++ [a.idx, b.idx] ++ (pqInsert _ rest).map Key.idx)
          (childIndices nodes ++ [a.idx, b.idx] ++ nodes.length :: rest.map Key.idx) := push.append_left _
      List.Perm _ (nodes.length :: (childIndices nodes ++ [a.idx, b.idx] ++ rest.map Key.idx)) := List.perm_middle
      List.Perm _ (nodes.length :: List.range nodes.length) := by simpa using ih
      List.Perm _ (List.range nodes.length ++ [nodes.length]) := (List.perm_append_singleton _ _).symm

theorem Merging.idx_lt (h : Merging table nodes pq) {k : Key} (hk : k ∈ pq) : k.idx < nodes.length := by
  have queued : k.idx ∈ childIndices nodes ++ pq.map Key.idx :=
    List.mem_append_right _ (List.mem_map_of_mem hk)
  exact List.mem_range.1 (h.owned_or_queued.mem_iff.1 queued)

/-- R129: the queue holds the keys of its nodes. -/
theorem Merging.keyAt_idx (h : Merging table nodes pq) : ∀ k ∈ pq, keyAt nodes k.idx = k := by
  induction h with
  | leaves =>
    intro k hk
    obtain ⟨⟨e, i⟩, he, rfl⟩ := List.mem_map.1 ((insertLeaves_nil_perm table).mem_iff.1 hk)
    exact keyAt_leaves (List.mem_zipIdx_iff_getElem?.1 he)
  | @merge nodes a b rest h ih =>
    intro k hk
    rcases List.mem_cons.1 ((pqInsert_perm _ rest).mem_iff.1 hk) with rfl | hk
    · exact keyAt_append_length nodes a b
    · have before : k ∈ a :: b :: rest := List.mem_cons_of_mem _ (List.mem_cons_of_mem _ hk)
      rw [keyAt_append (h.idx_lt before), ih k before]

theorem Merging.rising (h : Merging table nodes pq) : Rising pq := by
  induction h with
  | leaves => exact rising_insertLeaves table .nil (by simp)
  | merge h ih =>
    exact rising_pqInsert ih.of_cons.of_cons fun x hx => h.idx_lt (List.mem_cons_of_mem _ (List.mem_cons_of_mem _ hx))

/-- R134: a merge adds a node and leaves one key less in the queue. -/
theorem Merging.length_add (h : Merging table nodes pq) : nodes.length + pq.length = 2 * table.length := by
  induction h with
  | leaves => rw [(insertLeaves_nil_perm table).length_eq, List.length_map, List.length_map, List.length_zipIdx, two_mul]
  | merge _ ih =>
    rw [(pqInsert_perm _ _).length_eq]
    simp only [List.length_append, List.length_cons, List.length_nil] at ih ⊢
    omega

/-- The merges keep the sum of the frequencies in the queue. -/
theorem Merging.sum_freq (h : Merging table nodes pq) : (pq.map Key.freq).sum = (table.map FtEntry.cnt).sum := by
  induction h with
  | leaves => rw [((insertLeaves_nil_perm table).map Key.freq).sum_eq, map_freq_leafKey]
  | merge _ ih =>
    rw [((pqInsert_perm _ _).map Key.freq).sum_eq, ← ih]
    simp [Nat.add_assoc]

/-- R128, R132: the leaves stay, and nodes are only added after them. -/
theorem Merging.leaves_prefix (h : Merging table nodes pq) : table.map leafOf <+: nodes := by
  induction h with
  | leaves => exact List.prefix_refl _
  | merge _ ih => exact ih.trans (List.prefix_append _ _)

theorem Merging.getElem?_of_lt (h : Merging table nodes pq) {i : Nat} (hi : i < table.length) :
    nodes[i]? = (table[i]?).map leafOf := by
  obtain ⟨more, rfl⟩ := h.leaves_prefix
  rw [List.getElem?_append_left (by rwa [List.length_map]), List.getElem?_map]

/-- R132, R133: a node after the leaves is the parent of two earlier ones, the one with the smaller key on the left. -/
theorem Merging.exists_getElem?_eq_parentOf (h : Merging table nodes pq) :
    ∀ k, table.length ≤ k → k < nodes.length → ∃ l r, nodes[k]? = some (parentOf (keyAt nodes l) (keyAt nodes r)) ∧
      l < k ∧ r < k ∧ (keyAt nodes l).less (keyAt nodes r) = true := by
  induction h with
  | leaves =>
    intro k hn hk
    rw [List.length_map] at hk
    omega
  | @merge nodes a b rest h ih =>
    intro k hn hk
    rw [List.length_append, List.length_singleton] at hk
    rcases Nat.lt_succ_iff_lt_or_eq.1 hk with hk | rfl
    · obtain ⟨l, r, node, hl, hr, less⟩ := ih k hn hk
      refine ⟨l, r, ?_, hl, hr, ?_⟩ <;> rw [keyAt_append (hl.trans hk), keyAt_append (hr.trans hk)]
      · rw [List.getElem?_append_left hk, node]
      · exact less
    · have ha : a ∈ a :: b :: rest := List.mem_cons_self
      have hb : b ∈ a :: b :: rest := List.mem_cons_of_mem _ List.mem_cons_self
      refine ⟨a.idx, b.idx, ?_, h.idx_lt ha, h.idx_lt hb, ?_⟩ <;>
        rw [keyAt_append (h.idx_lt ha), keyAt_append (h.idx_lt hb), h.keyAt_idx a ha, h.keyAt_idx b hb]
      · exact List.getElem?_concat_length
      · exact List.rel_of_pairwise_cons h.rising List.mem_cons_self

/-- The node allocated last has no parent yet. -/
theorem Merging.succ_lt_of_mem_childIndices (h : Merging table nodes pq) : ∀ c ∈ childIndices nodes, c + 1 < nodes.length := by
  induction h with
  | leaves => simp [childIndices_leaves]
  | @merge nodes a b rest h ih =>
    intro c hc
    rw [childIndices_append_parentOf, List.mem_append] at hc
    rw [List.length_append, List.length_singleton, Nat.succ_lt_succ_iff]
    rcases hc with hc | hc
    · exact (Nat.lt_succ_self c).trans (ih c hc)
    · rcases List.mem_pair.1 hc with rfl | rfl
      · exact h.idx_lt List.mem_cons_self
      · exact h.idx_lt (List.mem_cons_of_mem _ List.mem_cons_self)

end

/-! ### R138: the arena and the key the loop ends with -/

section
variable {table : List FtEntry} {nodes : List Node} {pq : List Key} {root : Key}

theorem Merging.length_of_single (h : Merging table nodes [root]) : nodes.length = 2 * table.length - 1 := by
  have length := h.length_add
  rw [List.length_singleton] at length
  omega

/-- R138 (a): the one key left is that of the last node. -/
theorem Merging.root_idx_succ (h : Merging table nodes [root]) : root.idx + 1 = nodes.length := by
  have pos : 0 < nodes.length := Nat.zero_lt_of_lt (h.idx_lt List.mem_cons_self)
  have last : nodes.length - 1 ∈ childIndices nodes ++ [root.idx] :=
    h.owned_or_queued.mem_iff.2 (List.mem_range.2 (by omega))
  rcases List.mem_append.1 last with child | queued
  · have := h.succ_lt_of_mem_childIndices _ child
    omega
  · rw [List.mem_singleton] at queued
    omega

theorem Merging.leafCount_of_single (h : Merging table nodes [root]) : leafCount nodes.length = table.length := by
  rw [leafCount, h.length_of_single]
  omega

/-- R138 (b), (c), (d): the arena is one strictly binary tree. -/
theorem Merging.treeShape (h : Merging table nodes [root]) : TreeShape nodes root.idx where
  odd := by
    have := h.root_idx_succ
    have := h.length_of_single
    omega
  rootLast := h.root_idx_succ
  leaves i hi := by
    rw [h.leafCount_of_single] at hi
    exact ⟨table[i].sym, table[i].cnt, by rw [h.getElem?_of_lt hi, List.getElem?_eq_getElem hi]; rfl⟩
  internals k hn hk := by
    rw [h.leafCount_of_single] at hn
    obtain ⟨l, r, node, hl, hr, less⟩ := h.exists_getElem?_eq_parentOf k hn hk
    refine ⟨l, r, node, hl, hr, ?_⟩
    rintro rfl
    exact Key.not_less_self _ less
  owned i hi := by
    have once := h.owned_or_queued.count_eq i
    rw [List.count_eq_one_of_mem List.nodup_range (List.mem_range.2 hi), List.map_singleton, List.count_append,
      List.count_singleton] at once
    rcases eq_or_ne i root.idx with rfl | other
    · simpa using once
    · simpa [other, other.symm] using once

/-- R138 (c): the smaller key is on the left. -/
theorem Merging.keyAt_left_less (h : Merging table nodes pq) {k f l r : Nat} (node : nodes[k]? = some (.internal f l r)) :
    (keyAt nodes l).less (keyAt nodes r) = true := by
  rcases Nat.lt_or_ge k table.length with hk | hn
  · rw [h.getElem?_of_lt hk, List.getElem?_eq_getElem hk] at node
    cases node
  · obtain ⟨hk, -⟩ := List.getElem?_eq_some_iff.1 node
    obtain ⟨l', r', node', -, -, less⟩ := h.exists_getElem?_eq_parentOf k hn hk
    cases node.symm.trans node'
    exact less

/-- R138 (e): the root's frequency is the sum of the counts. -/
theorem Merging.keyAt_root_freq (h : Merging table nodes [root]) : (keyAt nodes root.idx).freq = (table.map FtEntry.cnt).sum := by
  rw [h.keyAt_idx root List.mem_cons_self, ← h.sum_freq, List.map_singleton, List.sum_singleton]

end

end Sys2Proof.Machine
end

section
/-! LEMMAS. `BUILD` as a command (41_tree_builder.md R126, R127, R137, R138). -/

namespace Sys2Proof.Machine

/-- R127: `BUILD` on a valid empty table. -/
theorem exec_build_of_empty {s : State} (valid : s.valid.ft = true) (empty : s.ftn = 0) :
    exec .build s = .next (raiseError s .emptyInput).goIdle := by
  calc exec .build s = (buildBody s).outcome := rfl
    _ = (endError s .emptyInput).outcome := by rw [buildBody, if_neg (by simp [valid]), if_pos empty]
    _ = .next (raiseError s .emptyInput).goIdle := rfl

/-- R137: `BUILD` on a valid non-empty table that satisfies `WF_FT`. -/
theorem exec_build_of_ftTable {s : State} {table : List FtEntry} (valid : s.valid.ft = true) (h : s.ftTable = some table)
    (nonempty : table ≠ []) (wf : wfFT table = true) :
    exec .build s = .next ((s.putTREE (buildTree table).1 (buildTree table).2).setErr .ok).goIdle := by
  have ftn : s.ftn ≠ 0 := by
    rw [← Memory.readRange_length h]
    exact fun zero => nonempty (List.length_eq_zero_iff.1 zero)
  calc exec .build s = (buildBody s).outcome := rfl
    _ = (endOk (s.putTREE (buildTree table).1 (buildTree table).2)).outcome := by
        rw [buildBody, if_neg (by simp [valid]), if_neg ftn, h]
        simp only [wf, if_true]
    _ = .next ((s.putTREE (buildTree table).1 (buildTree table).2).setErr .ok).goIdle := rfl

/-- R117 (b): the counts of the table `COUNT` has just written add up to `ILEN`. -/
theorem sum_cnt_ftTable_of_exec_count {s t : State} {table : List FtEntry} (h : exec .count s = .next t)
    (written : t.ftTable = some table) : (table.map FtEntry.cnt).sum = s.ilen := by
  rcases countBody_cases s with ⟨-, fault⟩ | ⟨input, hin, -⟩
  · cases h.symm.trans (congrArg Body.outcome fault)
  · cases (exec_count_of_input hin).symm.trans h
    obtain rfl : countTable input = table :=
      Option.some.inj ((Memory.readRange_entriesFrom (countTable input)).symm.trans written)
    rw [sum_cnt_countTable, Memory.readRange_length hin]

/-- Settles O27: the row of `EmptyInput` invalidates the tree and what comes after it, and nothing else. -/
theorem buildEmptyInput : Obligations.BuildEmptyInput := by
  unfold Obligations.BuildEmptyInput
  exact fun _ => exec_build_of_empty

/-- Settles O29: the arena is the one the merge loop ends with, and its properties are those that every merge keeps. -/
theorem buildCompletes : Obligations.BuildCompletes := by
  unfold Obligations.BuildCompletes
  intro table nonempty distinct positive
  obtain ⟨nodes, root, tree, h⟩ := exists_buildTree_eq nonempty
  have length := h.length_of_single
  have rootIdx : root.idx = 2 * table.length - 2 := by
    have := h.root_idx_succ
    omega
  refine ⟨nodes, length, fun i e he => ?_, rootIdx ▸ h.treeShape, fun k f l r => h.keyAt_left_less,
    rootIdx ▸ h.keyAt_root_freq, fun s valid ft => ?_⟩
  · obtain ⟨hi, -⟩ := List.getElem?_eq_some_iff.1 he
    rw [h.getElem?_of_lt hi, he]
    rfl
  · have run := exec_build_of_ftTable valid ft nonempty ((wfFT_iff table).2 ⟨distinct, positive⟩)
    rw [tree] at run
    have ftn : table.length = s.ftn := Memory.readRange_length ft
    refine ⟨_, run, fun i => ?_, ?_, ?_, fun s0 count => ?_, ?_⟩
    · simp [Memory.read_entriesFrom]
    · exact length.trans (by rw [ftn])
    · exact rootIdx.trans (by rw [ftn])
    · exact h.keyAt_root_freq.trans (sum_cnt_ftTable_of_exec_count count ft)
    · simp [State.goIdle, State.setErr, State.putTREE, Valid.afterTREE, valid]

end Sys2Proof.Machine
end

section
/-! LEMMAS. `PACK` (43_bit_packer.md): the concatenation of a covered input's codes (R168), the packed bytes of a string and their bits
(R169 to R171), and the command on a covered input (R172, R173). -/

namespace Sys2Proof.Machine

/-! ### Concatenation -/

/-- A range read gives its first entry and what a range read from the next index gives. -/
theorem Memory.readRange_succ_eq_some_cons_iff {α : Type} (m : Memory α) (start n : Nat) (v : α) (vs : List α) :
    Memory.readRange m start (n + 1) = some (v :: vs) ↔
      Memory.read m start = some v ∧ Memory.readRange m (start + 1) n = some vs := by
  rw [Memory.readRange]
  cases Memory.read m start with
  | none => simp
  | some w => cases Memory.readRange m (start + 1) n <;> simp

/-- R35: under `WF_CT` an entry of the table is the one its symbol finds. -/
theorem lookup_sym_of_mem {table : List CtEntry} (wf : WellFormedCT table) {e : CtEntry} (h : e ∈ table) :
    lookup table e.sym = some e := by
  cases found : lookup table e.sym with
  | none => simpa using List.find?_eq_none.1 found e h
  | some x =>
    have sym : x.sym = e.sym := by simpa using List.find?_some found
    rw [List.inj_on_of_nodup_map wf.symbols (List.mem_of_find?_eq_some found) h sym]

/-- R168: the loop passes over covered symbols and appends their codes. -/
theorem concatCodes_of_covered {table : List CtEntry} (wf : WellFormedCT table) {imem : Memory Sym} {es : List CtEntry} {j : Nat}
    (covered : ∀ e ∈ es, e ∈ table) (read : imem.readRange j es.length = some (es.map CtEntry.sym)) (n : Nat) (acc : Bits) :
    concatCodes table imem (es.length + n) j acc =
      concatCodes table imem n (j + es.length) (acc ++ es.flatMap CtEntry.code) := by
  induction es generalizing j acc with
  | nil => simp
  | cons e es ih =>
    obtain ⟨first, rest⟩ := (Memory.readRange_succ_eq_some_cons_iff ..).1 read
    obtain ⟨entry, later⟩ := List.forall_mem_cons.1 covered
    calc concatCodes table imem (es.length + 1 + n) j acc
        = concatCodes table imem (es.length + n) (j + 1) (acc ++ e.code) := by
          rw [Nat.add_right_comm, concatCodes, first]
          simp only [lookup_sym_of_mem wf entry]
      _ = concatCodes table imem n (j + 1 + es.length) (acc ++ e.code ++ es.flatMap CtEntry.code) := ih later rest _
      _ = concatCodes table imem n (j + (es.length + 1)) (acc ++ (e :: es).flatMap CtEntry.code) := by
          rw [List.append_assoc, List.flatMap_cons, Nat.add_assoc, Nat.add_comm 1]

/-! ### Padding and packing -/

@[simp] theorem length_packBytes (b : Bits) : (packBytes b).length = b.length / 8 := by simp [packBytes]

/-- R169, R170: the padding fills the group it begins in, or is a group of its own. -/
theorem length_padded (bits : Bits) : (padded bits).length = 8 * (bits.length / 8 + 1) := by
  rw [padded, List.length_append, List.length_replicate, padding]
  omega

/-- R171: the bits of the first `n` packed bytes are the first `8n` bits. -/
theorem flatMap_bitsOf_range (b : Bits) {n : Nat} (h : 8 * n ≤ b.length) :
    (List.range n).flatMap (fun k => bitsOf (byteOf ((b.drop (8 * k)).take 8))) = b.take (8 * n) := by
  induction n with
  | zero => rfl
  | succ n ih =>
    have group : ((b.drop (8 * n)).take 8).length = 8 := by
      rw [List.length_take, List.length_drop]
      omega
    rw [List.range_succ, List.flatMap_append, List.flatMap_singleton, ih (by omega), bitsOf_byteOf group, Nat.mul_succ,
      List.take_add]

/-- R171: the bits of the packed bytes are those of the whole groups. -/
theorem flatMap_bitsOf_packBytes (b : Bits) : (packBytes b).flatMap bitsOf = b.take (8 * (b.length / 8)) := by
  rw [packBytes, List.flatMap_map]
  exact flatMap_bitsOf_range b (Nat.mul_div_le _ _)

/-- R170, R171: a padded string is whole groups, so no bit of it is lost. -/
theorem flatMap_bitsOf_packBytes_padded (bits : Bits) : (packBytes (padded bits)).flatMap bitsOf = padded bits := by
  rw [flatMap_bitsOf_packBytes]
  refine List.take_of_length_le ?_
  rw [length_padded]
  omega

theorem length_packBytes_padded (bits : Bits) : (packBytes (padded bits)).length = bits.length / 8 + 1 := by
  rw [length_packBytes, length_padded]
  omega

/-! ### The structure `OUT` -/

/-- R172: the header stands in front of the packed bytes. -/
theorem State.putOUT_read_zero (s : State) (packed : List Byte) (l p : Nat) :
    Memory.read (s.putOUT packed l p).omem 0 = some (BitVec.ofNat 8 p) := by
  rw [State.putOUT_omem, Memory.read_writeFrom, if_pos (by simp), List.getElem?_cons_zero]

/-- R172: the packed bytes stand from index 1 on. -/
theorem State.putOUT_read_succ (s : State) {packed : List Byte} (l p : Nat) {k : Nat} (h : k < packed.length) :
    Memory.read (s.putOUT packed l p).omem (1 + k) = packed[k]? := by
  rw [State.putOUT_omem, Memory.read_writeFrom, if_pos (by simp; omega), Nat.sub_zero, Nat.add_comm, List.getElem?_cons_succ]

/-! ### The command -/

/-- R173: the body of `PACK` on an input whose symbols all stand in the table. -/
theorem packBody_of_covered {s : State} {table es : List CtEntry} {bits : Bits} (valid : s.valid.ct = true)
    (ct : s.ctTable = some table) (wf : WellFormedCT table) (covered : ∀ e ∈ es, e ∈ table)
    (input : s.input = some (es.map CtEntry.sym)) (codes : bits = es.flatMap CtEntry.code) :
    packBody s = endOk (s.putOUT (packBytes (padded bits)) bits.length (padding bits.length)) := by
  have ilen : es.length = s.ilen := by simpa using Memory.readRange_length input
  have concat : concatCodes table s.imem s.ilen 0 [] = .bits bits := by
    rw [← ilen, codes]
    exact concatCodes_of_covered wf covered (ilen ▸ input) 0 []
  rw [packBody, if_neg (by simp [valid]), ct]
  simp only [(wfCT_iff table).2 wf, if_true, concat]

/-- Settles O37: the packed bytes are `packBytes` of the padded string, whose bits are all of that string. -/
theorem packCompletes : Obligations.PackCompletes := by
  unfold Obligations.PackCompletes
  intro s table es bits valid ct wf covered input codes
  have run : exec .pack s = .next _ := congrArg Body.outcome (packBody_of_covered valid ct wf covered input codes)
  have olen : bits.length / 8 + 2 = 1 + (packBytes (padded bits)).length := by
    rw [length_packBytes_padded]
    omega
  refine ⟨_, packBytes (padded bits), run, flatMap_bitsOf_packBytes_padded bits, State.putOUT_read_zero s _ bits.length _,
    fun k => State.putOUT_read_succ s bits.length (padding bits.length), rfl, ?_⟩
  rw [olen]
  rfl

end Sys2Proof.Machine
end

section
/-! LEMMAS. Paths in a tree (30_encoding.md R93): in the tree of `TreeShape` every node is reached from the root, by one path only. -/

namespace Sys2Proof.Machine

/-! ### One step of a path -/

/-- `IsChild nodes j b k`: the step `b` leads from node `j` to node `k`. -/
def IsChild (nodes : List Node) (j : Nat) (b : Bool) (k : Nat) : Prop :=
  ∃ f l r, nodes[j]? = some (.internal f l r) ∧ (if b then r else l) = k

theorem exists_isChild_of_mem_childIndices {nodes : List Node} {k : Nat} (h : k ∈ childIndices nodes) :
    ∃ j b, IsChild nodes j b k := by
  obtain ⟨node, hnode, hk⟩ := List.mem_flatMap.1 h
  obtain ⟨j, hj⟩ := List.mem_iff_getElem?.1 hnode
  cases node with
  | leaf => cases hk
  | internal f l r =>
    rcases List.mem_pair.1 hk with rfl | rfl
    · exact ⟨j, false, f, k, r, hj, rfl⟩
    · exact ⟨j, true, f, l, k, hj, rfl⟩

theorem IsChild.mem_children {nodes : List Node} {j k : Nat} {b : Bool} (h : IsChild nodes j b k) :
    ∃ node, nodes[j]? = some node ∧ k ∈ node.children := by
  obtain ⟨f, l, r, hj, rfl⟩ := h
  exact ⟨_, hj, by cases b <;> simp [Node.children]⟩

theorem IsChild.mem_childIndices {nodes : List Node} {j k : Nat} {b : Bool} (h : IsChild nodes j b k) :
    k ∈ childIndices nodes := by
  obtain ⟨node, hj, hk⟩ := h.mem_children
  exact List.mem_flatMap.2 ⟨node, List.mem_of_getElem? hj, hk⟩

/-! ### Following a path -/

/-- No step leads on from a leaf. -/
theorem follow_leaf {nodes : List Node} {i k : Nat} {x f : Nat} (leaf : nodes[i]? = some (.leaf x f)) {p : Bits}
    (h : follow nodes i p = some k) : p = [] ∧ k = i := by
  cases p with
  | nil => exact ⟨rfl, (Option.some.inj h).symm⟩
  | cons b p => simp [follow, leaf] at h

theorem follow_cons_internal {nodes : List Node} {i f l r : Nat} (node : nodes[i]? = some (.internal f l r)) (b : Bool) (p : Bits) :
    follow nodes i (b :: p) = follow nodes (if b then r else l) p := by
  rw [follow, node]

theorem follow_append (nodes : List Node) (i : Nat) (p q : Bits) :
    follow nodes i (p ++ q) = (follow nodes i p).bind fun j => follow nodes j q := by
  induction p generalizing i with
  | nil => rfl
  | cons b p ih =>
    rw [List.cons_append, follow, follow]
    split
    · exact ih _
    · rfl

theorem follow_singleton_iff (nodes : List Node) (j : Nat) (b : Bool) (k : Nat) :
    follow nodes j [b] = some k ↔ IsChild nodes j b k := by
  unfold IsChild
  rw [follow]
  split
  case h_1 f l r node => simp [follow, node]
  case h_2 other =>
    refine iff_of_false (by simp) ?_
    rintro ⟨f, l, r, node, -⟩
    exact other f l r node

/-- The last step of a path leads to a child. -/
theorem follow_concat_iff (nodes : List Node) (i : Nat) (p : Bits) (b : Bool) (k : Nat) :
    follow nodes i (p ++ [b]) = some k ↔ ∃ j, follow nodes i p = some j ∧ IsChild nodes j b k := by
  simp only [follow_append, Option.bind_eq_some_iff, follow_singleton_iff]

/-! ### The tree -/

section
variable {nodes : List Node} {root : Nat}

/-- R138 (c): a node is above both its children. -/
theorem TreeShape.children_lt (shape : TreeShape nodes root) {j f l r : Nat} (node : nodes[j]? = some (.internal f l r)) :
    l < j ∧ r < j ∧ l ≠ r := by
  obtain ⟨hj, -⟩ := List.getElem?_eq_some_iff.1 node
  have inner : leafCount nodes.length ≤ j := by
    by_contra low
    obtain ⟨x, f, leaf⟩ := shape.leaves j (Nat.lt_of_not_le low)
    cases leaf.symm.trans node
  obtain ⟨l', r', node', lt⟩ := shape.internals j inner hj
  cases node.symm.trans node'
  exact lt

theorem TreeShape.lt_of_isChild (shape : TreeShape nodes root) {j k : Nat} {b : Bool} (h : IsChild nodes j b k) :
    k < j ∧ j < nodes.length := by
  obtain ⟨f, l, r, node, rfl⟩ := h
  obtain ⟨hj, -⟩ := List.getElem?_eq_some_iff.1 node
  obtain ⟨hl, hr, -⟩ := shape.children_lt node
  cases b
  · exact ⟨hl, hj⟩
  · exact ⟨hr, hj⟩

theorem TreeShape.count_childIndices_of_isChild (shape : TreeShape nodes root) {j k : Nat} {b : Bool} (h : IsChild nodes j b k) :
    (childIndices nodes).count k = if k = root then 0 else 1 := by
  obtain ⟨below, top⟩ := shape.lt_of_isChild h
  exact shape.owned k (below.trans top)

theorem TreeShape.not_isChild_root (shape : TreeShape nodes root) {j : Nat} {b : Bool} : ¬ IsChild nodes j b root := fun h => by
  have unowned := shape.count_childIndices_of_isChild h
  rw [if_pos rfl, List.count_eq_zero] at unowned
  exact unowned h.mem_childIndices

theorem TreeShape.nodup_childIndices (shape : TreeShape nodes root) : (childIndices nodes).Nodup := by
  refine List.nodup_iff_count_le_one.2 fun k => ?_
  by_cases hk : k ∈ childIndices nodes
  · obtain ⟨j, b, h⟩ := exists_isChild_of_mem_childIndices hk
    rw [shape.count_childIndices_of_isChild h]
    split <;> omega
  · rw [List.count_eq_zero_of_not_mem hk]
    exact Nat.zero_le 1

/-- R138 (d): a node is the child of one node at most, and on one side of it. -/
theorem TreeShape.isChild_unique (shape : TreeShape nodes root) {j j' k : Nat} {b b' : Bool} (h : IsChild nodes j b k)
    (h' : IsChild nodes j' b' k) : j = j' ∧ b = b' := by
  obtain ⟨-, apart⟩ := List.nodup_flatMap.1 shape.nodup_childIndices
  have once : ∀ i i' : Nat, i < i' → ∀ c c', IsChild nodes i c k → ¬ IsChild nodes i' c' k := by
    intro i i' lt c c' hc hc'
    obtain ⟨node, hi, hk⟩ := hc.mem_children
    obtain ⟨node', hi', hk'⟩ := hc'.mem_children
    obtain ⟨li, rfl⟩ := List.getElem?_eq_some_iff.1 hi
    obtain ⟨li', rfl⟩ := List.getElem?_eq_some_iff.1 hi'
    exact List.pairwise_iff_getElem.1 apart i i' li li' lt hk hk'
  rcases Nat.lt_trichotomy j j' with lt | rfl | lt
  · exact absurd h' (once j j' lt b b' h)
  · obtain ⟨f, l, r, node, rfl⟩ := h
    obtain ⟨f', l', r', node', same⟩ := h'
    cases node.symm.trans node'
    obtain ⟨-, -, differ⟩ := shape.children_lt node
    refine ⟨rfl, ?_⟩
    cases b <;> cases b'
    · rfl
    · exact absurd same.symm differ
    · exact absurd same differ
    · rfl
  · exact absurd h (once j' j lt b' b h')

/-- Every node is reached from the root, by going up from it. -/
theorem TreeShape.exists_follow (shape : TreeShape nodes root) {i : Nat} (hi : i < nodes.length) :
    ∃ p, follow nodes root p = some i := by
  induction h : nodes.length - i using Nat.strong_induction_on generalizing i with
  | _ n ih =>
    by_cases top : i = root
    · exact ⟨[], by rw [top]; rfl⟩
    · have child : i ∈ childIndices nodes := List.count_pos_iff.1 (by rw [shape.owned i hi, if_neg top]; exact Nat.one_pos)
      obtain ⟨j, b, hj⟩ := exists_isChild_of_mem_childIndices child
      obtain ⟨above, lt⟩ := shape.lt_of_isChild hj
      obtain ⟨p, hp⟩ := ih _ (by omega) lt rfl
      exact ⟨p ++ [b], (follow_concat_iff ..).2 ⟨j, hp, hj⟩⟩

/-- Only one path leads from the root to a node: the last steps of two paths to it are the same. -/
theorem TreeShape.follow_inj (shape : TreeShape nodes root) {p q : Bits} {i : Nat} (hp : follow nodes root p = some i)
    (hq : follow nodes root q = some i) : p = q := by
  induction p using List.reverseRecOn generalizing q i with
  | nil =>
    cases hp
    cases q using List.reverseRecOn with
    | nil => rfl
    | append_singleton q b =>
      obtain ⟨j, -, child⟩ := (follow_concat_iff ..).1 hq
      exact absurd child shape.not_isChild_root
  | append_singleton p b ih =>
    obtain ⟨j, hj, child⟩ := (follow_concat_iff ..).1 hp
    cases q using List.reverseRecOn with
    | nil =>
      cases hq
      exact absurd child shape.not_isChild_root
    | append_singleton q b' =>
      obtain ⟨j', hj', child'⟩ := (follow_concat_iff ..).1 hq
      obtain ⟨rfl, rfl⟩ := shape.isChild_unique child child'
      rw [ih hj hj']

/-- R157 (d): the path to a leaf is no beginning of the path to another. -/
theorem follow_leaf_prefix {p q : Bits} {i j x f : Nat} (leaf : nodes[i]? = some (.leaf x f)) (hp : follow nodes root p = some i)
    (hq : follow nodes root q = some j) (begins : p <+: q) : j = i := by
  obtain ⟨rest, rfl⟩ := begins
  rw [follow_append, hp, Option.bind_some] at hq
  exact (follow_leaf leaf hq).2

/-- R34: a tree whose root is a leaf has no other node. -/
theorem TreeShape.leafCount_of_leaf_root (shape : TreeShape nodes root) {x f : Nat} (leaf : nodes[root]? = some (.leaf x f)) :
    root = 0 ∧ leafCount nodes.length = 1 := by
  have last := shape.rootLast
  have odd := shape.odd
  have low : root < leafCount nodes.length := by
    by_contra inner
    obtain ⟨l, r, node, -⟩ := shape.internals root (Nat.le_of_not_lt inner) (by omega)
    cases leaf.symm.trans node
  rw [leafCount] at low ⊢
  omega

end

end Sys2Proof.Machine
end

section
/-! LEMMAS. `ASSIGN` (42_code_assigner.md): the entries the walk writes are the leaves with their paths (R152, R153), and the code
table they make up is well-formed (R154, R157). -/

namespace Sys2Proof.Machine

/-! ### The walk -/

/-- R152: the walk from node `i` with the path `path` so far has to write `w`: a leaf below node `i`, with the whole path to it. -/
def IsLeafEntry (nodes : List Node) (i : Nat) (path : Bits) (w : Nat × CtEntry) : Prop :=
  ∃ p x f, follow nodes i p = some w.1 ∧ nodes[w.1]? = some (.leaf x f) ∧ w.2 = codeEntry x (path ++ p)

theorem isLeafEntry_leaf_iff {nodes : List Node} {i x f : Nat} (leaf : nodes[i]? = some (.leaf x f)) (path : Bits)
    (w : Nat × CtEntry) : IsLeafEntry nodes i path w ↔ w = (i, codeEntry x path) := by
  constructor
  · rintro ⟨p, y, g, hp, hw, entry⟩
    obtain ⟨rfl, same⟩ := follow_leaf leaf hp
    rw [same, leaf] at hw
    cases hw
    rw [List.append_nil] at entry
    exact Prod.ext same entry
  · rintro rfl
    exact ⟨[], x, f, rfl, leaf, by rw [List.append_nil]⟩

theorem isLeafEntry_internal_iff {nodes : List Node} {i f l r : Nat} (node : nodes[i]? = some (.internal f l r)) (path : Bits)
    (w : Nat × CtEntry) :
    IsLeafEntry nodes i path w ↔ IsLeafEntry nodes l (path ++ [false]) w ∨ IsLeafEntry nodes r (path ++ [true]) w := by
  constructor
  · rintro ⟨p, x, g, hp, leaf, entry⟩
    cases p with
    | nil =>
      cases hp
      cases node.symm.trans leaf
    | cons b p =>
      rw [follow_cons_internal node] at hp
      rw [List.append_cons] at entry
      cases b
      · exact .inl ⟨p, x, g, hp, leaf, entry⟩
      · exact .inr ⟨p, x, g, hp, leaf, entry⟩
  · rintro (⟨p, x, g, hp, leaf, entry⟩ | ⟨p, x, g, hp, leaf, entry⟩)
    · exact ⟨false :: p, x, g, (follow_cons_internal node false p).trans hp, leaf, by rw [entry, ← List.append_cons]⟩
    · exact ⟨true :: p, x, g, (follow_cons_internal node true p).trans hp, leaf, by rw [entry, ← List.append_cons]⟩

/-- R152: with fuel above the node's index the walk in a tree ends, and writes the entries it has to and no others. -/
theorem TreeShape.exists_walk {nodes : List Node} {root : Nat} (shape : TreeShape nodes root) {mem : Memory Node}
    (read : ∀ i < nodes.length, mem.read i = nodes[i]?) {fuel i : Nat} (enough : i < fuel) (hi : i < nodes.length) (path : Bits) :
    ∃ entries, walk mem fuel i path = some entries ∧ ∀ w, w ∈ entries ↔ IsLeafEntry nodes i path w := by
  induction fuel generalizing i path with
  | zero => omega
  | succ fuel ih =>
    have node : nodes[i]? = some nodes[i] := List.getElem?_eq_getElem hi
    rw [walk, read i hi]
    cases kind : nodes[i] with
    | leaf x f =>
      rw [kind] at node
      refine ⟨[(i, codeEntry x path)], by rw [node], fun w => ?_⟩
      rw [List.mem_singleton, isLeafEntry_leaf_iff node]
    | internal f l r =>
      rw [kind] at node
      obtain ⟨hl, hr, -⟩ := shape.children_lt node
      obtain ⟨left, walkLeft, memLeft⟩ := ih (i := l) (by omega) (by omega) (path ++ [false])
      obtain ⟨right, walkRight, memRight⟩ := ih (i := r) (by omega) (by omega) (path ++ [true])
      refine ⟨left ++ right, by simp only [node, walkLeft, walkRight], fun w => ?_⟩
      rw [List.mem_append, memLeft, memRight, isLeafEntry_internal_iff node]

/-! ### The entries -/

/-- R157 of the entries `ASSIGN` writes, in whatever order: (a) one for each leaf, at its index and with its symbol, (c), (e) of a length of
at least 1 and a value that fits, (d) with no code a prefix of another. -/
structure LeafCodes (nodes : List Node) (entries : List (Nat × CtEntry)) : Prop where
  exists_mem : ∀ i < leafCount nodes.length, ∃ e, (i, e) ∈ entries
  unique : ∀ i e e', (i, e) ∈ entries → (i, e') ∈ entries → e = e'
  leaf : ∀ i e, (i, e) ∈ entries → ∃ f, nodes[i]? = some (.leaf e.sym f)
  nonempty : ∀ i e, (i, e) ∈ entries → 1 ≤ e.len
  fits : ∀ i e, (i, e) ∈ entries → e.val < 2 ^ e.len
  prefixFree : ∀ i j e e', (i, e) ∈ entries → (j, e') ∈ entries → e.code <+: e'.code → j = i

section
variable {nodes : List Node} {root : Nat} {entries : List (Nat × CtEntry)}

/-- R153: the one-bit code of the one leaf. -/
theorem TreeShape.leafCodes_of_leaf_root (shape : TreeShape nodes root) {x f : Nat} (leaf : nodes[root]? = some (.leaf x f)) :
    LeafCodes nodes [(root, codeEntry x [false])] := by
  obtain ⟨zero, one⟩ := shape.leafCount_of_leaf_root leaf
  have only : ∀ i e, (i, e) ∈ [(root, codeEntry x [false])] → i = root ∧ e = codeEntry x [false] := fun i e h => by simpa using h
  refine ⟨fun i hi => ⟨codeEntry x [false], ?_⟩, fun i e e' h h' => ?_, fun i e h => ?_, fun i e h => ?_, fun i e h => ?_,
    fun i j e e' h h' _ => ?_⟩
  · rw [show i = root by omega]
    exact List.mem_singleton_self _
  · rw [(only i e h).2, (only i e' h').2]
  · obtain ⟨rfl, rfl⟩ := only i e h
    exact ⟨f, leaf⟩
  · obtain ⟨rfl, rfl⟩ := only i e h
    exact le_refl 1
  · obtain ⟨rfl, rfl⟩ := only i e h
    exact codeEntry_val_lt x [false]
  · rw [(only i e h).1, (only j e' h').1]

/-- R152, R157: the leaves below an internal root with their paths from it. -/
theorem TreeShape.leafCodes_of_internal_root (shape : TreeShape nodes root) {f l r : Nat}
    (node : nodes[root]? = some (.internal f l r)) (mem : ∀ w, w ∈ entries ↔ IsLeafEntry nodes root [] w) :
    LeafCodes nodes entries where
  exists_mem i hi := by
    obtain ⟨x, f, leaf⟩ := shape.leaves i hi
    obtain ⟨p, hp⟩ := shape.exists_follow (List.getElem?_eq_some_iff.1 leaf).1
    exact ⟨codeEntry x p, (mem _).2 ⟨p, x, f, hp, leaf, rfl⟩⟩
  unique i e e' h h' := by
    obtain ⟨p, x, f, hp, leaf, rfl⟩ := (mem (i, e)).1 h
    obtain ⟨p', x', f', hp', leaf', rfl⟩ := (mem (i, e')).1 h'
    cases leaf.symm.trans leaf'
    rw [shape.follow_inj hp hp']
  leaf i e h := by
    obtain ⟨p, x, f, -, leaf, rfl⟩ := (mem (i, e)).1 h
    exact ⟨f, leaf⟩
  nonempty i e h := by
    obtain ⟨p, x, f, hp, leaf, rfl⟩ := (mem (i, e)).1 h
    refine List.length_pos_iff.2 ?_
    rintro rfl
    cases hp
    cases node.symm.trans leaf
  fits i e h := by
    obtain ⟨p, x, f, -, -, rfl⟩ := (mem (i, e)).1 h
    exact codeEntry_val_lt x p
  prefixFree i j e e' h h' begins := by
    obtain ⟨p, x, f, hp, leaf, rfl⟩ := (mem (i, e)).1 h
    obtain ⟨q, y, g, hq, -, rfl⟩ := (mem (j, e')).1 h'
    rw [codeEntry_code, codeEntry_code] at begins
    exact follow_leaf_prefix leaf hp hq begins

/-- R154: on a tree `ASSIGN` finds an entry for each leaf. -/
theorem TreeShape.exists_assignEntries (shape : TreeShape nodes root) {mem : Memory Node}
    (read : ∀ i < nodes.length, mem.read i = nodes[i]?) :
    ∃ entries, assignEntries mem root = some entries ∧ LeafCodes nodes entries := by
  have hroot : root < nodes.length := by
    have := shape.rootLast
    omega
  have node : nodes[root]? = some nodes[root] := List.getElem?_eq_getElem hroot
  rw [assignEntries, read root hroot]
  cases kind : nodes[root] with
  | leaf x f =>
    rw [kind] at node
    exact ⟨_, by rw [node], shape.leafCodes_of_leaf_root node⟩
  | internal f l r =>
    rw [kind] at node
    obtain ⟨entries, run, entriesMem⟩ := shape.exists_walk read (Nat.lt_succ_self root) hroot []
    exact ⟨entries, by rw [node]; exact run, shape.leafCodes_of_internal_root node entriesMem⟩

/-! ### The table -/

/-- An entry whose index no later write gives another value to. -/
theorem Memory.read_writeAll_of_read {α : Type} {es : List (Nat × α)} {m : Memory α} {i : Nat} {v : α} (h : m.read i = some v)
    (unique : ∀ v', (i, v') ∈ es → v' = v) : Memory.read (Memory.writeAll m es) i = some v := by
  induction es generalizing m with
  | nil => exact h
  | cons e es ih =>
    obtain ⟨j, w⟩ := e
    refine ih ?_ fun v' hv => unique v' (List.mem_cons_of_mem _ hv)
    rcases eq_or_ne i j with rfl | other
    · rw [Memory.read_write_same, unique w List.mem_cons_self]
    · rw [Memory.read_write_other m other, h]

/-- An entry written by a list of writes that gives its index no other value. -/
theorem Memory.read_writeAll_of_mem {α : Type} {es : List (Nat × α)} (m : Memory α) {i : Nat} {v : α} (h : (i, v) ∈ es)
    (unique : ∀ v', (i, v') ∈ es → v' = v) : Memory.read (Memory.writeAll m es) i = some v := by
  induction es generalizing m with
  | nil => cases h
  | cons e es ih =>
    have later : ∀ v', (i, v') ∈ es → v' = v := fun v' hv => unique v' (List.mem_cons_of_mem _ hv)
    rcases List.mem_cons.1 h with rfl | h
    · exact Memory.read_writeAll_of_read (m := m.write i v) (Memory.read_write_same m i v) later
    · exact ih _ h later

theorem Memory.exists_readRange {α : Type} {m : Memory α} {start n : Nat} (h : ∀ k < n, ∃ v, m.read (start + k) = some v) :
    ∃ vs, m.readRange start n = some vs := by
  induction n generalizing start with
  | zero => exact ⟨[], rfl⟩
  | succ n ih =>
    obtain ⟨v, hv⟩ := h 0 (Nat.succ_pos n)
    obtain ⟨vs, hvs⟩ := ih (start := start + 1) fun k hk => by
      rw [Nat.add_right_comm]
      exact h (k + 1) (Nat.succ_lt_succ hk)
    exact ⟨v :: vs, (Memory.readRange_succ_eq_some_cons_iff ..).2 ⟨hv, hvs⟩⟩

/-- R157 (a): the entries make up a table, whose entry `i` is that of leaf `i`. -/
theorem LeafCodes.exists_table (codes : LeafCodes nodes entries) :
    ∃ table, Memory.readRange (Memory.writeAll [] entries) 0 (leafCount nodes.length) = some table ∧
      ∀ i e, table[i]? = some e → (i, e) ∈ entries := by
  have written : ∀ i < leafCount nodes.length,
      ∃ e, (i, e) ∈ entries ∧ Memory.read (Memory.writeAll [] entries) (0 + i) = some e := by
    intro i hi
    obtain ⟨e, he⟩ := codes.exists_mem i hi
    refine ⟨e, he, ?_⟩
    rw [Nat.zero_add]
    exact Memory.read_writeAll_of_mem [] he fun e' he' => codes.unique i e' e he' he
  obtain ⟨table, read⟩ := Memory.exists_readRange fun i hi => (written i hi).imp fun _ h => h.2
  refine ⟨table, read, fun i e he => ?_⟩
  obtain ⟨length, entry⟩ := (Memory.readRange_eq_some_iff ..).1 read
  have hi : i < leafCount nodes.length := length ▸ (List.getElem?_eq_some_iff.1 he).1
  obtain ⟨e', he', read'⟩ := written i hi
  rw [entry i hi, he] at read'
  cases read'
  exact he'

/-- R157 (c), (d), (e): a table of such entries is well-formed where the leaves' symbols are pairwise different. -/
theorem LeafCodes.wellFormedCT (codes : LeafCodes nodes entries) {table : List CtEntry}
    (mem : ∀ i e, table[i]? = some e → (i, e) ∈ entries) (distinct : (table.map CtEntry.sym).Nodup) : WellFormedCT table where
  symbols := distinct
  nonempty e he := by
    obtain ⟨i, hi⟩ := List.mem_iff_getElem?.1 he
    exact codes.nonempty i e (mem i e hi)
  fits e he := by
    obtain ⟨i, hi⟩ := List.mem_iff_getElem?.1 he
    exact codes.fits i e (mem i e hi)
  prefixFree := List.pairwise_iff_getElem.2 fun i j hi hj lt => by
    have first := mem i _ (List.getElem?_eq_getElem hi)
    have second := mem j _ (List.getElem?_eq_getElem hj)
    refine ⟨fun begins => ?_, fun begins => ?_⟩
    · exact lt.ne' (codes.prefixFree _ _ _ _ first second begins)
    · exact lt.ne (codes.prefixFree _ _ _ _ second first begins)

end

end Sys2Proof.Machine
end

section
/-! LEMMAS. `ENCODE` and `CLEAR` (44_encoder_facade.md): the four bodies in a row on a written non-empty input end OK (R185, R187), and
what they put into the structures is found from the input alone (R190). -/

namespace Sys2Proof.Machine

/-! ### The table of the input -/

theorem countTable_ne_nil {input : List Sym} (nonempty : input ≠ []) : countTable input ≠ [] := by
  obtain ⟨x, hx⟩ := List.exists_mem_of_ne_nil input nonempty
  rw [← List.mem_eraseDups, ← map_sym_countTable] at hx
  intro empty
  rw [empty] at hx
  cases hx

/-- R117 (a): the table of an input satisfies `WF_FT`. -/
theorem wfFT_countTable (input : List Sym) : wfFT (countTable input) = true := by
  refine (wfFT_iff _).2 ⟨?_, fun e he => ((mem_countTable_iff input e).1 he).1⟩
  rw [map_sym_countTable]
  exact nodup_eraseDups input

/-- R157 (a): codes for the tree of a table stand in the table's order. -/
theorem LeafCodes.map_sym_eq {ft : List FtEntry} {nodes : List Node} {root : Key} {entries : List (Nat × CtEntry)}
    (codes : LeafCodes nodes entries) (tree : Merging ft nodes [root]) {table : List CtEntry} (length : table.length = ft.length)
    (mem : ∀ i e, table[i]? = some e → (i, e) ∈ entries) : table.map CtEntry.sym = ft.map FtEntry.sym := by
  refine List.ext_getElem (by simpa using length) fun i hi hi' => ?_
  rw [List.length_map] at hi hi'
  obtain ⟨f, leaf⟩ := codes.leaf i _ (mem i _ (List.getElem?_eq_getElem hi))
  rw [tree.getElem?_of_lt hi', List.getElem?_eq_getElem hi', Option.map_some, leafOf] at leaf
  obtain ⟨same, -⟩ := Node.leaf.inj (Option.some.inj leaf)
  rw [List.getElem_map, List.getElem_map, same]

/-- R167: an input whose symbols all stand in the table is covered by entries of it. -/
theorem exists_covering {table : List CtEntry} {input : List Sym} (h : ∀ x ∈ input, x ∈ table.map CtEntry.sym) :
    ∃ es : List CtEntry, (∀ e ∈ es, e ∈ table) ∧ es.map CtEntry.sym = input := by
  induction input with
  | nil => exact ⟨[], by simp, rfl⟩
  | cons x input ih =>
    obtain ⟨first, later⟩ := List.forall_mem_cons.1 h
    obtain ⟨e, he, rfl⟩ := List.mem_map.1 first
    obtain ⟨es, hes, rfl⟩ := ih later
    exact ⟨e :: es, List.forall_mem_cons.2 ⟨he, hes⟩, rfl⟩

/-! ### What the bodies find for an input -/

/-- R185: what `COUNT`, `BUILD` and `ASSIGN` find for an input, one after another, and the codes of the input: none of it speaks of
a state. -/
structure EncodeResult (input : List Sym) (nodes : List Node) (root : Nat) (entries : List (Nat × CtEntry)) (bits : Bits) :
    Prop where
  tree : buildTree (countTable input) = (nodes, root)
  assigned : assignEntries (Memory.entriesFrom 0 nodes) root = some entries
  packed : ∃ table es : List CtEntry, Memory.readRange (Memory.writeAll [] entries) 0 (leafCount nodes.length) = some table ∧
    WellFormedCT table ∧ (∀ e ∈ es, e ∈ table) ∧ es.map CtEntry.sym = input ∧ bits = es.flatMap CtEntry.code

/-- R187: for a non-empty input there is a tree, a code for each leaf of it, and an entry for each symbol. -/
theorem exists_encodeResult {input : List Sym} (nonempty : input ≠ []) :
    ∃ nodes root entries bits, EncodeResult input nodes root entries bits := by
  obtain ⟨nodes, root, tree, merging⟩ := exists_buildTree_eq (countTable_ne_nil nonempty)
  have read : ∀ i < nodes.length, (Memory.entriesFrom 0 nodes).read i = nodes[i]? := fun i _ => by simp [Memory.read_entriesFrom]
  obtain ⟨entries, assigned, codes⟩ := merging.treeShape.exists_assignEntries read
  obtain ⟨table, ct, mem⟩ := codes.exists_table
  have syms : table.map CtEntry.sym = input.eraseDups := by
    rw [codes.map_sym_eq merging ((Memory.readRange_length ct).trans merging.leafCount_of_single) mem, map_sym_countTable]
  have wf : WellFormedCT table := codes.wellFormedCT mem (syms ▸ nodup_eraseDups input)
  obtain ⟨es, covered, input_eq⟩ := exists_covering (table := table) (input := input) fun x hx => by
    rw [syms]
    exact List.mem_eraseDups.2 hx
  exact ⟨nodes, root.idx, entries, _, tree, assigned, table, es, ct, wf, covered, input_eq, rfl⟩

/-! ### The bodies in a row -/

/-- R185: the state after `COUNT`, `BUILD`, `ASSIGN` and `PACK` have each put their structure. -/
def State.putEncoding (s : State) (input : List Sym) (nodes : List Node) (root : Nat) (entries : List (Nat × CtEntry))
    (bits : Bits) : State :=
  (((s.putFT (countTable input)).putTREE nodes root).putCT entries (leafCount nodes.length)).putOUT
    (packBytes (padded bits)) bits.length (padding bits.length)

/-- R172: reading the payload whole gives the header and the packed bytes. -/
theorem State.putOUT_payload (s : State) (packed : List Byte) (l p : Nat) :
    (s.putOUT packed l p).payload = some (BitVec.ofNat 8 p :: packed) := by
  rw [State.payload, State.putOUT_omem, State.putOUT_olen, Nat.add_comm]
  exact Memory.readRange_writeFrom (BitVec.ofNat 8 p :: packed) s.omem 0

theorem State.putEncoding_payload (s : State) (input : List Sym) (nodes : List Node) (root : Nat) (entries : List (Nat × CtEntry))
    (bits : Bits) : (s.putEncoding input nodes root entries bits).payload =
      some (BitVec.ofNat 8 (padding bits.length) :: packBytes (padded bits)) :=
  State.putOUT_payload ..

/-- R137: the body of `BUILD` after `COUNT` on a non-empty input. -/
theorem buildBody_putFT (s : State) {input : List Sym} (nonempty : input ≠ []) {nodes : List Node} {root : Nat}
    (tree : buildTree (countTable input) = (nodes, root)) :
    buildBody ((s.putFT (countTable input)).setErr .ok) = endOk ((s.putFT (countTable input)).putTREE nodes root) := by
  have ftn : (countTable input).length ≠ 0 := fun zero => countTable_ne_nil nonempty (List.length_eq_zero_iff.1 zero)
  have ft : ((s.putFT (countTable input)).setErr .ok).ftTable = some (countTable input) := Memory.readRange_entriesFrom _
  rw [buildBody, if_neg (by simp), if_neg (by simpa using ftn), ft]
  simp only [wfFT_countTable, if_true, tree]
  rfl

/-- R154: the body of `ASSIGN` after `BUILD`. -/
theorem assignBody_putTREE (s : State) {nodes : List Node} {root : Nat} {entries : List (Nat × CtEntry)}
    (assigned : assignEntries (Memory.entriesFrom 0 nodes) root = some entries) :
    assignBody ((s.putTREE nodes root).setErr .ok) = endOk ((s.putTREE nodes root).putCT entries (leafCount nodes.length)) := by
  rw [assignBody, if_neg (by simp)]
  simp only [State.setErr_node, State.putTREE_node, State.setErr_root, State.putTREE_root, assigned]
  rfl

/-- R185: the four bodies in a row, each on what the one before left. -/
theorem encodeBody_of_input {s : State} {input : List Sym} (h : s.input = some input) (nonempty : input ≠ [])
    {nodes : List Node} {root : Nat} {entries : List (Nat × CtEntry)} {bits : Bits}
    (enc : EncodeResult input nodes root entries bits) :
    encodeBody s = endOk (s.derivedClear.putEncoding input nodes root entries bits) := by
  obtain ⟨tree, assigned, table, es, ct, wf, covered, syms, codes⟩ := enc
  have count : countBody s.derivedClear = endOk (s.derivedClear.putFT (countTable input)) := by
    rw [countBody, show s.derivedClear.input = some input from h]
  rw [encodeBody, count, endOk, Body.andThen_done, buildBody_putFT _ nonempty tree, endOk, Body.andThen_done,
    assignBody_putTREE _ assigned, endOk, Body.andThen_done]
  exact packBody_of_covered rfl ct wf covered (syms ▸ h) codes

/-! ### The commands -/

/-- R185, R187: `ENCODE` on a written non-empty input ends OK. -/
theorem exec_encode_of_input {s : State} {input : List Sym} (h : s.input = some input) (nonempty : input ≠ [])
    {nodes : List Node} {root : Nat} {entries : List (Nat × CtEntry)} {bits : Bits}
    (enc : EncodeResult input nodes root entries bits) :
    exec .encode s = .next ((s.derivedClear.putEncoding input nodes root entries bits).setErr .ok).goIdle := by
  calc exec .encode s = (encodeBody s).outcome := rfl
    _ = (endOk (s.derivedClear.putEncoding input nodes root entries bits)).outcome := by rw [encodeBody_of_input h nonempty enc]
    _ = .next ((s.derivedClear.putEncoding input nodes root entries bits).setErr .ok).goIdle := rfl

/-- Settles O44: what the four bodies put is found before the states are looked at; the payload is what `PACK` has just written. -/
theorem encodeDependsOnInputOnly : Obligations.EncodeDependsOnInputOnly := by
  unfold Obligations.EncodeDependsOnInputOnly
  intro s1 s2 input h1 h2 nonempty
  obtain ⟨nodes, root, entries, bits, enc⟩ := exists_encodeResult nonempty
  have payload1 := s1.derivedClear.putEncoding_payload input nodes root entries bits
  have payload2 := s2.derivedClear.putEncoding_payload input nodes root entries bits
  exact ⟨_, _, exec_encode_of_input h1 nonempty enc, exec_encode_of_input h2 nonempty enc, rfl, rfl, rfl, rfl, rfl, rfl, rfl, rfl, rfl,
    rfl, payload1.trans payload2.symm, congrArg Option.isSome payload1⟩

/-- Settles O22: `derived_clear` resets the valid bits and the derived registers, and `CLEAR` adds `ILEN`, `ERR` and `BUSY`. -/
theorem clearCompletes : Obligations.ClearCompletes := by
  unfold Obligations.ClearCompletes
  intro s
  calc exec .clear s = (clearBody s).outcome := rfl
    _ = .next ({ s.derivedClear with ilen := 0 }.setErr .ok).goIdle := rfl
    _ = .next { s with cmd := none, valid := Valid.none, err := .ok, ilen := 0, ftn := 0, noden := 0, root := 0, ctn := 0,
                       bitlen := 0, pad := 0, olen := 0, dlen := 0 } := rfl

end Sys2Proof.Machine
end

section
/-! LEMMAS. Errors (60_exceptions.md): a command that lacks the structure it reads (R215, R217), the state an error leaves (R220), and the
command issued again from it (R223). -/

namespace Sys2Proof.Machine

/-! ### The state an error leaves -/

/-- R220: the state after a command that raised the error of row `r` on `s` has ended. -/
def State.afterError (s : State) (r : ErrorRow) : State := (raiseError s r).goIdle

theorem outcome_endError (s : State) (r : ErrorRow) : (endError s r).outcome = .next (s.afterError r) := rfl

/-- R220: an error entry writes constants only, so taking the same error twice is taking it once. -/
@[simp] theorem State.afterError_afterError (s : State) (r : ErrorRow) : (s.afterError r).afterError r = s.afterError r := by
  cases r <;> rfl

theorem eq_afterError_of_endError {s t : State} {r : ErrorRow} (h : (endError s r).outcome = .next t) : t = s.afterError r :=
  (Host.Outcome.next.inj h).symm

/-- R43: a body that ends OK leaves `ERR = 0`. -/
theorem err_eq_ok_of_endOk {u t : State} (h : (endOk u).outcome = .next t) : t.err = .ok := by
  cases h
  rfl

/-- R223: a body that raises on the state of an error the error it has come from ends in that state. -/
theorem outcome_eq_of_endError_again {s : State} {r : ErrorRow} {b : Body} (again : b = endError (s.afterError r) r) :
    b.outcome = .next (s.afterError r) := by
  rw [again, outcome_endError, State.afterError_afterError]

/-! ### A missing structure -/

/-- R217: `BUILD` without a frequency table. -/
theorem buildBody_of_missing {s : State} (missing : s.valid.ft = false) : buildBody s = endError s .sequenceError := if_pos missing

/-- R217: `ASSIGN` without a tree. -/
theorem assignBody_of_missing {s : State} (missing : s.valid.tree = false) : assignBody s = endError s .sequenceError :=
  if_pos missing

/-- R217: `PACK` without a code table. -/
theorem packBody_of_missing {s : State} (missing : s.valid.ct = false) : packBody s = endError s .sequenceError := if_pos missing

/-- R215: `DECODE` without a code table. -/
theorem decodeBody_of_missing {s : State} (missing : s.valid.ct = false) : decodeBody s = endError s .tableMissing := if_pos missing

/-! ### `COUNT`, `CLEAR` and `ENCODE` -/

theorem exec_count_err {s t : State} (h : exec .count s = .next t) : t.err = .ok := by
  change (countBody s).outcome = .next t at h
  rcases countBody_cases s with ⟨-, stop⟩ | ⟨input, -, done⟩
  · cases stop ▸ h
  · exact err_eq_ok_of_endOk (done ▸ h)

theorem exec_clear_err {s t : State} (h : exec .clear s = .next t) : t.err = .ok := err_eq_ok_of_endOk h

/-- R187: on an empty input `COUNT`'s body ends OK with an empty table, and `BUILD`'s raises `EmptyInput` on what that left. -/
theorem exec_encode_of_empty {s : State} (empty : s.ilen = 0) :
    exec .encode s = .next ((s.derivedClear.putFT []).afterError .emptyInput) := by
  have input : s.derivedClear.input = some [] := by
    rw [State.input, State.derivedClear_ilen, empty, Memory.readRange_zero]
  have count : countBody s.derivedClear = endOk (s.derivedClear.putFT []) := by
    rw [countBody, input]
    rfl
  calc exec .encode s = (encodeBody s).outcome := rfl
    _ = .next ((s.derivedClear.putFT []).afterError .emptyInput) := by
        rw [encodeBody, count]
        rfl

/-- R187: `EmptyInput` is the only error of `ENCODE`. -/
theorem ilen_eq_zero_of_exec_encode_error {s t : State} (h : exec .encode s = .next t) (err : t.err ≠ .ok) : s.ilen = 0 := by
  cases read : s.input with
  | none =>
    have stop : encodeBody s = .fault .unspecifiedRead := by
      rw [encodeBody, countBody, show s.derivedClear.input = none from read]
      rfl
    cases (congrArg Body.outcome stop).symm.trans h
  | some input =>
    rw [← Memory.readRange_length read, List.length_eq_zero_iff]
    by_contra nonempty
    obtain ⟨nodes, root, entries, bits, enc⟩ := exists_encodeResult nonempty
    cases (exec_encode_of_input read nonempty enc).symm.trans h
    exact err rfl

/-- R187, R223: the error keeps `ILEN`, and what it leaves of the derived registers is what `derived_clear` and `COUNT`'s body leave. -/
theorem exec_encode_error {s t : State} (h : exec .encode s = .next t) (err : t.err ≠ .ok) :
    t = (s.derivedClear.putFT []).afterError .emptyInput ∧ exec .encode t = .next t := by
  have empty := ilen_eq_zero_of_exec_encode_error h err
  obtain rfl := Host.Outcome.next.inj (h.symm.trans (exec_encode_of_empty empty))
  exact ⟨rfl, exec_encode_of_empty empty⟩

/-- Settles O26: each of the four commands checks the valid bit first, and `ENCODE` can raise no error but `EmptyInput`. -/
theorem missingStructureErrors : Obligations.MissingStructureErrors := by
  unfold Obligations.MissingStructureErrors
  refine ⟨rfl, rfl, fun s t h seq => ?_, fun s => ⟨fun missing => ?_, fun missing => ?_, fun missing => ?_, fun missing => ?_⟩⟩
  · have err : t.err ≠ .ok := by simp [seq]
    rcases h with h | h | h
    · exact err (exec_count_err h)
    · obtain ⟨rfl, -⟩ := exec_encode_error h err
      cases seq
    · exact err (exec_clear_err h)
  · exact congrArg Body.outcome (buildBody_of_missing missing)
  · exact congrArg Body.outcome (assignBody_of_missing missing)
  · exact congrArg Body.outcome (packBody_of_missing missing)
  · exact congrArg Body.outcome (decodeBody_of_missing missing)

end Sys2Proof.Machine
end

section
/-! LEMMAS. A command issued again after an error (60_exceptions.md R223): which error rows each command takes, and that it takes the
same row again on the state the error left. -/

namespace Sys2Proof.Machine

/-! ### `BUILD`, `ASSIGN`, `PACK` -/

/-- R217, R213: `BUILD` raises two errors, each of which leaves the operand it looked at. -/
theorem exec_build_error {s t : State} (h : exec .build s = .next t) (err : t.err ≠ .ok) :
    (t = s.afterError .sequenceError ∨ t = s.afterError .emptyInput) ∧ exec .build t = .next t := by
  change (buildBody s).outcome = .next t at h
  rcases buildBody_cases s with ⟨missing, ends⟩ | ⟨valid, empty, ends⟩ | ⟨-, -, -, ends⟩ | ⟨table, -, -, -, -, ends⟩ <;>
    rw [ends] at h
  · obtain rfl := eq_afterError_of_endError h
    exact ⟨.inl rfl, outcome_eq_of_endError_again (buildBody_of_missing missing)⟩
  · obtain rfl := eq_afterError_of_endError h
    exact ⟨.inr rfl, exec_build_of_empty valid empty⟩
  · cases h
  · exact absurd (err_eq_ok_of_endOk h) err

/-- R217: `ASSIGN` raises `SequenceError` only. -/
theorem exec_assign_error {s t : State} (h : exec .assign s = .next t) (err : t.err ≠ .ok) :
    t = s.afterError .sequenceError ∧ exec .assign t = .next t := by
  change (assignBody s).outcome = .next t at h
  rcases assignBody_cases s with ⟨missing, ends⟩ | ⟨-, -, ends⟩ | ⟨entries, -, -, ends⟩ <;> rw [ends] at h
  · obtain rfl := eq_afterError_of_endError h
    exact ⟨rfl, outcome_eq_of_endError_again (assignBody_of_missing missing)⟩
  · cases h
  · exact absurd (err_eq_ok_of_endOk h) err

/-- R173, R216: the body of `PACK` on an input with a symbol that has no code. -/
theorem packBody_of_uncovered {s : State} {table : List CtEntry} (valid : s.valid.ct = true) (ct : s.ctTable = some table)
    (wf : wfCT table = true) (uncovered : concatCodes table s.imem s.ilen 0 [] = .uncovered) :
    packBody s = endError s .uncoveredSymbol := by
  rw [packBody, if_neg (by simp [valid]), ct]
  simp only [wf, if_true, uncovered]

/-- R217, R216: `PACK` raises two errors, and loses no operand by either: `OUT` is not read. -/
theorem exec_pack_error {s t : State} (h : exec .pack s = .next t) (err : t.err ≠ .ok) :
    (t = s.afterError .sequenceError ∨ t = s.afterError .uncoveredSymbol) ∧ exec .pack t = .next t := by
  change (packBody s).outcome = .next t at h
  rcases packBody_cases s with ⟨missing, ends⟩ | ⟨-, -, ends⟩ |
    ⟨table, valid, ct, wf, ⟨-, ends⟩ | ⟨uncovered, ends⟩ | ⟨bits, -, ends⟩⟩ <;> rw [ends] at h
  · obtain rfl := eq_afterError_of_endError h
    exact ⟨.inl rfl, outcome_eq_of_endError_again (packBody_of_missing missing)⟩
  · cases h
  · cases h
  · obtain rfl := eq_afterError_of_endError h
    exact ⟨.inr rfl, outcome_eq_of_endError_again (packBody_of_uncovered valid ct wf uncovered)⟩
  · exact absurd (err_eq_ok_of_endOk h) err

/-! ### `DECODE` -/

/-- R214, R215: the rows of the errors that `DECODE` raises over its data. -/
def ErrorRow.IsDataError (r : ErrorRow) : Prop := r = .decodeCorruption ∨ r = .tableMismatch

/-- R199 to R202: which end the data comes to is found without the state. -/
theorem decodeData_cases (table : List CtEntry) (p : Nat) (all : Bits) :
    (∃ r : ErrorRow, r.IsDataError ∧ ∀ s, decodeData s table p all = endError s r) ∨
    ∃ out, ∀ s, decodeData s table p all = endOk (s.putDEC out) := by
  by_cases short : all.length < p
  · exact .inl ⟨_, .inl rfl, fun s => if_pos short⟩
  cases ends : matchBits table (all.take (all.length - p)) [] [] with
  | symbols out => exact .inr ⟨out, fun s => by rw [decodeData, if_neg short, ends]⟩
  | mismatch => exact .inl ⟨_, .inr rfl, fun s => by rw [decodeData, if_neg short, ends]⟩
  | leftover => exact .inl ⟨_, .inl rfl, fun s => by rw [decodeData, if_neg short, ends]⟩

/-- R198: with a header of at most 8, `DECODE` goes on to the packed bytes. -/
theorem decodePayload_of_packed {s : State} (table : List CtEntry) {header : Byte} {packed : List Byte} (nonempty : s.olen ≠ 0)
    (head : Memory.read s.omem 0 = some header) (fits : ¬ 8 < header.toNat)
    (tail : Memory.readRange s.omem 1 (s.olen - 1) = some packed) :
    decodePayload s table = decodeData s table header.toNat (unpackBits packed) := by
  rw [decodePayload, if_neg nonempty, head]
  dsimp only
  rw [if_neg fits, tail]

/-- R197: of the state, only `OLEN` and `OMEM` tell which error the payload raises. -/
theorem decodePayload_cases (s : State) (table : List CtEntry) :
    (∃ r : ErrorRow, r.IsDataError ∧ ∀ t : State, t.olen = s.olen → t.omem = s.omem → decodePayload t table = endError t r) ∨
    decodePayload s table = .fault .unspecifiedRead ∨ ∃ out, decodePayload s table = endOk (s.putDEC out) := by
  by_cases empty : s.olen = 0
  · exact .inl ⟨_, .inl rfl, fun t olen _ => if_pos (olen.trans empty)⟩
  cases head : Memory.read s.omem 0 with
  | none => exact .inr (.inl (by rw [decodePayload, if_neg empty, head]))
  | some header =>
    by_cases large : 8 < header.toNat
    · refine .inl ⟨_, .inl rfl, fun t olen omem => ?_⟩
      rw [decodePayload, olen, omem, if_neg empty, head]
      exact if_pos large
    cases tail : Memory.readRange s.omem 1 (s.olen - 1) with
    | none =>
      refine .inr (.inl ?_)
      rw [decodePayload, if_neg empty, head]
      dsimp only
      rw [if_neg large, tail]
    | some packed =>
      have run {t : State} (olen : t.olen = s.olen) (omem : t.omem = s.omem) :=
        decodePayload_of_packed table (olen ▸ empty) (omem ▸ head) large (olen ▸ omem ▸ tail)
      rcases decodeData_cases table header.toNat (unpackBits packed) with ⟨r, row, raised⟩ | ⟨out, done⟩
      · exact .inl ⟨r, row, fun t olen omem => (run olen omem).trans (raised t)⟩
      · exact .inr (.inr ⟨out, (run rfl rfl).trans (done s)⟩)

/-- R196: `DECODE` on a well-formed code table goes on to the payload. -/
theorem decodeBody_of_ctTable {s : State} {table : List CtEntry} (valid : s.valid.ct = true) (ct : s.ctTable = some table)
    (wf : wfCT table = true) : decodeBody s = decodePayload s table := by
  rw [decodeBody, if_neg (by simp [valid]), ct]
  exact if_pos wf

/-- R196: `DECODE` with `V_CT` ends only on a well-formed code table. -/
theorem exists_ctTable_of_exec_decode {s t : State} (valid : s.valid.ct = true) (h : exec .decode s = .next t) :
    ∃ table, s.ctTable = some table ∧ wfCT table = true := by
  change (decodeBody s).outcome = .next t at h
  rw [decodeBody, if_neg (by simp [valid])] at h
  cases ct : s.ctTable with
  | none =>
    rw [ct] at h
    cases h
  | some table =>
    refine ⟨table, rfl, ?_⟩
    by_contra illFormed
    rw [ct] at h
    cases (congrArg Body.outcome (if_neg illFormed)).symm.trans h

/-- R220: a data error of `DECODE` changes no operand of it, and no valid bit but `V_DEC`. -/
theorem ErrorRow.IsDataError.keeps_operands {r : ErrorRow} (row : r.IsDataError) (s : State) :
    (s.afterError r).omem = s.omem ∧ (s.afterError r).olen = s.olen ∧ (s.afterError r).ct = s.ct ∧ (s.afterError r).ctn = s.ctn ∧
      (s.afterError r).valid = { s.valid with dec := (s.afterError r).valid.dec } := by
  rcases row with rfl | rfl <;> exact ⟨rfl, rfl, rfl, rfl, rfl⟩

/-- R214, R215: `DECODE` raises `TableMismatch` without looking at the payload, or a data error that the operands bring about. -/
theorem exec_decode_error {s t : State} (h : exec .decode s = .next t) (err : t.err ≠ .ok) :
    (t = s.afterError .tableMissing ∨ ∃ r : ErrorRow, r.IsDataError ∧ t = s.afterError r) ∧ exec .decode t = .next t := by
  cases valid : s.valid.ct with
  | false =>
    obtain rfl := eq_afterError_of_endError (decodeBody_of_missing valid ▸ h : (endError s .tableMissing).outcome = .next t)
    exact ⟨.inl rfl, outcome_eq_of_endError_again (decodeBody_of_missing valid)⟩
  | true =>
    obtain ⟨table, ct, wf⟩ := exists_ctTable_of_exec_decode valid h
    have run : (decodePayload s table).outcome = .next t := decodeBody_of_ctTable valid ct wf ▸ h
    rcases decodePayload_cases s table with ⟨r, row, raised⟩ | stop | ⟨out, done⟩
    · obtain rfl := eq_afterError_of_endError (raised s rfl rfl ▸ run)
      obtain ⟨omem, olen, ctMem, ctn, bits⟩ := row.keeps_operands s
      have valid' : (s.afterError r).valid.ct = true := by rw [bits, valid]
      have ct' : (s.afterError r).ctTable = some table := by rw [State.ctTable, ctMem, ctn]; exact ct
      exact ⟨.inr ⟨r, row, rfl⟩,
        outcome_eq_of_endError_again ((decodeBody_of_ctTable valid' ct' wf).trans (raised _ olen omem))⟩
    · cases stop ▸ run
    · exact absurd (err_eq_ok_of_endOk (done ▸ run)) err

/-- Settles O53: `COUNT` and `CLEAR` raise nothing; each other command takes the same row again, and the rows it can take leave what
the statement names. -/
theorem retryFailsIdentically : Obligations.RetryFailsIdentically := by
  unfold Obligations.RetryFailsIdentically
  intro i s t h err
  cases i with
  | clear => exact absurd (exec_clear_err h) err
  | count => exact absurd (exec_count_err h) err
  | build =>
    obtain ⟨row, again⟩ := exec_build_error h err
    refine ⟨again, fun _ => ?_, nofun, nofun, nofun, nofun⟩
    rcases row with rfl | rfl <;> exact ⟨rfl, rfl, rfl, rfl⟩
  | assign =>
    obtain ⟨rfl, again⟩ := exec_assign_error h err
    exact ⟨again, nofun, fun _ => ⟨rfl, rfl, rfl, rfl⟩, nofun, nofun, nofun⟩
  | pack =>
    obtain ⟨row, again⟩ := exec_pack_error h err
    refine ⟨again, nofun, nofun, fun _ => ?_, nofun, nofun⟩
    rcases row with rfl | rfl <;> exact ⟨rfl, rfl, rfl, rfl, rfl⟩
  | encode =>
    obtain ⟨rfl, again⟩ := exec_encode_error h err
    exact ⟨again, nofun, nofun, nofun, fun _ => ⟨rfl, rfl⟩, nofun⟩
  | decode =>
    obtain ⟨row, again⟩ := exec_decode_error h err
    refine ⟨again, nofun, nofun, nofun, nofun, fun _ => ?_⟩
    rcases row with rfl | ⟨r, row, rfl⟩
    · exact ⟨rfl, rfl, rfl, rfl, rfl⟩
    · exact row.keeps_operands s

end Sys2Proof.Machine
end

section
/-! LEMMAS. The hardware reset (70_reset_and_hazards.md): the state it leaves (R236), and each command as the first one after it (R237). -/

namespace Sys2Proof.Machine

/-! ### The reset state -/

section
variable (p : Params)

/-- R236: the block is idle. -/
@[simp] theorem State.busy_resetOf : (State.resetOf p).busy = false := rfl

/-- R236: not busy, no structure valid, no error. -/
@[simp] theorem statusWord_resetOf : statusWord (State.resetOf p) = 0 := rfl

/-- R237: with `ILEN = 0` no entry of `IMEM` is read, so the input is written although `IMEM` is unspecified. -/
@[simp] theorem State.input_resetOf : (State.resetOf p).input = some [] := Memory.readRange_zero _ _

/-- R47, R236: every memory is one that holds no entry. -/
theorem State.read_resetOf (i : Nat) :
    (State.resetOf p).imem.read i = none ∧ (State.resetOf p).ft.read i = none ∧ (State.resetOf p).node.read i = none ∧
      (State.resetOf p).ct.read i = none ∧ Memory.read (State.resetOf p).omem i = none ∧ (State.resetOf p).dmem.read i = none :=
  ⟨Memory.read_nil i, Memory.read_nil i, Memory.read_nil i, Memory.read_nil i, Memory.read_nil i, Memory.read_nil i⟩

end

/-- Settles O13: the registers of the reset state are written out as 0, `STATUS` is made from bits that are, and reading finds nothing. -/
theorem stateAfterReset : Obligations.StateAfterReset := by
  unfold Obligations.StateAfterReset
  refine ⟨rfl, fun _ => rfl, fun p => ?_⟩
  exact ⟨statusWord_resetOf p, State.busy_resetOf p, rfl, rfl, rfl, rfl, rfl, rfl, rfl, rfl, rfl, State.read_resetOf p⟩

/-! ### The first command -/

/-- Settles O14: the input is empty and no structure is valid, so each command does what it does from every such state. -/
theorem commandsFromReset : Obligations.CommandsFromReset := by
  unfold Obligations.CommandsFromReset
  intro p
  obtain ⟨-, -, -, missing⟩ := missingStructureErrors
  obtain ⟨noFT, noTREE, noCT, noTable⟩ := missing (State.resetOf p)
  refine ⟨?_, ?_, ?_, noFT rfl, noTREE rfl, noCT rfl, noTable rfl⟩
  · exact clearCompletes (State.resetOf p)
  · exact exec_count_of_input (State.input_resetOf p)
  · exact exec_encode_of_empty rfl

end Sys2Proof.Machine
end

section
/-! LEMMAS. The greedy choice of `BUILD` (41_tree_builder.md R129, R131, R132, R136): each merge takes the two least keys among
the nodes that have no parent yet. With it the frame of the command. -/

namespace Sys2Proof.Machine

/-! ### The choice of one merge -/

/-- R132, R136: node `k` is the parent of the two nodes of least key among those before it that had no parent, the lesser on the left. -/
def MergesLeast (nodes : List Node) (k : Nat) : Prop :=
  ∃ f l r, nodes[k]? = some (.internal f l r) ∧
    (l < k ∧ l ∉ childIndices (nodes.take k)) ∧ (r < k ∧ r ∉ childIndices (nodes.take k)) ∧
    (keyAt nodes l).less (keyAt nodes r) = true ∧
    ∀ j, j < k → j ∉ childIndices (nodes.take k) → j ≠ l → j ≠ r → (keyAt nodes r).less (keyAt nodes j) = true

/-- The choice speaks of the nodes up to `k` only, so nodes added later do not change it. -/
theorem MergesLeast.append {nodes : List Node} {k : Nat} (h : MergesLeast nodes k) (more : List Node) :
    MergesLeast (nodes ++ more) k := by
  obtain ⟨f, l, r, node, ⟨hl, freeL⟩, ⟨hr, freeR⟩, less, least⟩ := h
  have hk : k < nodes.length := (List.getElem?_eq_some_iff.1 node).1
  have same {i : Nat} (hi : i < k) : keyAt (nodes ++ more) i = keyAt nodes i := keyAt_append (hi.trans hk) more
  have before : (nodes ++ more).take k = nodes.take k := List.take_append_of_le_length hk.le
  refine ⟨f, l, r, by rw [List.getElem?_append_left hk, node], ⟨hl, before ▸ freeL⟩, ⟨hr, before ▸ freeR⟩, ?_, fun j hj free jl jr => ?_⟩
  · rwa [same hl, same hr]
  · rw [same hr, same hj]
    exact least j hj (before ▸ free) jl jr

section
variable {table : List FtEntry} {nodes : List Node} {pq : List Key}

/-- R132: a node has no parent yet exactly while its key is in the queue. -/
theorem Merging.notMem_childIndices_iff (h : Merging table nodes pq) {i : Nat} (hi : i < nodes.length) :
    i ∉ childIndices nodes ↔ i ∈ pq.map Key.idx := by
  have once : (childIndices nodes ++ pq.map Key.idx).Nodup := h.owned_or_queued.nodup_iff.2 List.nodup_range
  have allocated := List.mem_append.1 (h.owned_or_queued.mem_iff.2 (List.mem_range.2 hi))
  exact ⟨allocated.resolve_left, fun queued owned => List.disjoint_of_nodup_append once owned queued⟩

/-- R131, R132: the node that a merge allocates is made of the two keys at the head of the queue, the least of those in it. -/
theorem Merging.mergesLeast_length {a b : Key} {rest : List Key} (h : Merging table nodes (a :: b :: rest)) :
    MergesLeast (nodes ++ [parentOf a b]) nodes.length := by
  have ha : a ∈ a :: b :: rest := List.mem_cons_self
  have hb : b ∈ a :: b :: rest := List.mem_cons_of_mem _ List.mem_cons_self
  have key {k : Key} (hk : k ∈ a :: b :: rest) : keyAt (nodes ++ [parentOf a b]) k.idx = k := by
    rw [keyAt_append (h.idx_lt hk), h.keyAt_idx k hk]
  have free {k : Key} (hk : k ∈ a :: b :: rest) : k.idx ∉ childIndices nodes :=
    (h.notMem_childIndices_iff (h.idx_lt hk)).2 (List.mem_map_of_mem hk)
  obtain ⟨aLeast, restRising⟩ := List.pairwise_cons.1 h.rising
  refine ⟨a.freq + b.freq, a.idx, b.idx, List.getElem?_concat_length, ?_, ?_, ?_, ?_⟩
  · exact ⟨h.idx_lt ha, by rw [List.take_left]; exact free ha⟩
  · exact ⟨h.idx_lt hb, by rw [List.take_left]; exact free hb⟩
  · rw [key ha, key hb]
    exact aLeast b List.mem_cons_self
  · intro j hj freeJ ja jb
    rw [List.take_left, h.notMem_childIndices_iff hj] at freeJ
    obtain ⟨k, hk, rfl⟩ := List.mem_map.1 freeJ
    rw [key hb, key hk]
    have hrest : k ∈ rest := by
      rcases List.mem_cons.1 hk with rfl | hk
      · exact absurd rfl ja
      rcases List.mem_cons.1 hk with rfl | hk
      · exact absurd rfl jb
      · exact hk
    exact List.rel_of_pairwise_cons restRising hrest

/-- R136: every node after the leaves was made by such a merge. -/
theorem Merging.mergesLeast (h : Merging table nodes pq) : ∀ k, table.length ≤ k → k < nodes.length → MergesLeast nodes k := by
  induction h with
  | leaves =>
    intro k hn hk
    rw [List.length_map] at hk
    omega
  | @merge nodes a b rest h ih =>
    intro k hn hk
    rw [List.length_append, List.length_singleton] at hk
    rcases Nat.lt_succ_iff_lt_or_eq.1 hk with hk | rfl
    · exact (ih k hn hk).append _
    · exact h.mergesLeast_length

end

/-! ### The command -/

/-- R34: reading `TREE` whole gives the nodes that were put there. -/
theorem State.putTREE_nodes (s : State) (nodes : List Node) (r : Nat) : (s.putTREE nodes r).nodes = some nodes :=
  Memory.readRange_entriesFrom nodes

/-- Settles O30: the arena `BUILD` writes is the one the merge loop ends with, and each merge took the two keys at the queue's head. -/
theorem buildMergesLeastKeys : Obligations.BuildMergesLeastKeys := by
  unfold Obligations.BuildMergesLeastKeys
  intro s table valid ft nonempty distinct positive
  obtain ⟨nodes, root, tree, h⟩ := exists_buildTree_eq nonempty
  have run := exec_build_of_ftTable valid ft nonempty ((wfFT_iff table).2 ⟨distinct, positive⟩)
  rw [tree] at run
  exact ⟨_, nodes, run, s.putTREE_nodes nodes root.idx, h.mergesLeast⟩

/-- Settles O31: of `BUILD`'s ends, the two errors leave `TREE` alone, and OK puts `TREE` and nothing else. -/
theorem buildFrame : Obligations.BuildFrame := by
  unfold Obligations.BuildFrame
  intro s t h
  change (buildBody s).outcome = .next t at h
  rcases buildBody_cases s with ⟨-, ends⟩ | ⟨-, -, ends⟩ | ⟨-, -, -, ends⟩ | ⟨table, -, -, -, -, ends⟩ <;> rw [ends] at h
  · obtain rfl := eq_afterError_of_endError h
    exact ⟨rfl, rfl, rfl, fun _ => ⟨rfl, rfl, rfl⟩⟩
  · obtain rfl := eq_afterError_of_endError h
    exact ⟨rfl, rfl, rfl, fun _ => ⟨rfl, rfl, rfl⟩⟩
  · cases h
  · cases h
    exact ⟨rfl, rfl, rfl, fun err => absurd rfl err⟩

end Sys2Proof.Machine
end

section
/-! LEMMAS. `ASSIGN` as a command (42_code_assigner.md): the walk by an explicit stack (R156), the codes as paths (R157 (b)), the
command on a tree (R154) and its frame. -/

namespace Sys2Proof.Machine

/-! ### The walk by an explicit stack -/

theorem one_le_length_of_walk {nodes : Memory Node} {fuel i : Nat} {path : Bits} {entries : List (Nat × CtEntry)}
    (h : walk nodes fuel i path = some entries) : 1 ≤ entries.length := by
  induction fuel generalizing i path entries with
  | zero => cases h
  | succ fuel ih =>
    rw [walk] at h
    split at h
    · cases h
    · cases h
      exact le_refl 1
    · split at h
      · cases h
      next left hl =>
        split at h
        · cases h
        · cases h
          rw [List.length_append]
          exact Nat.le_add_right_of_le (ih hl)

/-- R156: the explicit stack goes through the tree below its top entry, in one visit for each node there, and then on with the rest. -/
theorem walkStack_of_walk {nodes : Memory Node} {fuel i : Nat} {path : Bits} {entries : List (Nat × CtEntry)}
    (h : walk nodes fuel i path = some entries) {visits : Nat} {stack : List (Nat × Bits)} {out : List (Nat × CtEntry)}
    (rest : walkStack nodes visits stack = some out) :
    walkStack nodes (2 * entries.length - 1 + visits) ((i, path) :: stack) = some (entries ++ out) := by
  induction fuel generalizing i path entries visits stack out with
  | zero => cases h
  | succ fuel ih =>
    rw [walk] at h
    split at h
    · cases h
    next sym freq node =>
      cases h
      rw [List.length_singleton, show 2 * 1 - 1 + visits = visits + 1 by omega, walkStack, node]
      simp only [rest, List.singleton_append]
    next freq l r node =>
      split at h
      · cases h
      next left hl =>
        split at h
        · cases h
        next right hr =>
          cases h
          have hll := one_le_length_of_walk hl
          have hrl := one_le_length_of_walk hr
          have visitsEq : 2 * (left ++ right).length - 1 + visits =
              2 * left.length - 1 + (2 * right.length - 1 + visits) + 1 := by
            rw [List.length_append]
            omega
          rw [visitsEq, walkStack, node, List.append_assoc]
          exact ih hl (ih hr rest)

/-- Settles O36: the walk from one node is the walk from a stack with nothing below that node. -/
theorem stackWalkWritesSameEntries : Obligations.StackWalkWritesSameEntries := by
  unfold Obligations.StackWalkWritesSameEntries
  intro nodes fuel i path entries h
  have empty : walkStack nodes 0 [] = some [] := rfl
  simpa using walkStack_of_walk h empty

/-! ### Where the leaves and the internal nodes are -/

section
variable {nodes : List Node} {root : Nat}

theorem TreeShape.lt_leafCount (shape : TreeShape nodes root) {i x f : Nat} (leaf : nodes[i]? = some (.leaf x f)) :
    i < leafCount nodes.length := by
  by_contra inner
  obtain ⟨l, r, node, -⟩ := shape.internals i (Nat.le_of_not_lt inner) (List.getElem?_eq_some_iff.1 leaf).1
  cases leaf.symm.trans node

theorem TreeShape.leafCount_le (shape : TreeShape nodes root) {k f l r : Nat} (node : nodes[k]? = some (.internal f l r)) :
    leafCount nodes.length ≤ k := by
  by_contra low
  obtain ⟨x, f, leaf⟩ := shape.leaves k (Nat.lt_of_not_le low)
  cases leaf.symm.trans node

/-- R138 (a): `n` leaves and the root as the last of `2n - 1` nodes. -/
theorem TreeShape.root_add_two (shape : TreeShape nodes root) : root + 2 = 2 * leafCount nodes.length := by
  have odd := shape.odd
  have last := shape.rootLast
  rw [leafCount]
  omega

/-- R157 (b): a path goes down through internal nodes, so it has at most one step for each of them from its start on. -/
theorem TreeShape.length_add_leafCount_le (shape : TreeShape nodes root) {i j : Nat} {p : Bits} (nonempty : p ≠ [])
    (h : follow nodes i p = some j) : p.length + leafCount nodes.length ≤ i + 1 := by
  induction p generalizing i with
  | nil => exact absurd rfl nonempty
  | cons b p ih =>
    obtain ⟨k, hk, h⟩ := Option.bind_eq_some_iff.1 ((follow_append nodes i [b] p).symm.trans h)
    have child := (follow_singleton_iff ..).1 hk
    have below := (shape.lt_of_isChild child).1
    obtain ⟨f, l, r, node, -⟩ := child
    have inner := shape.leafCount_le node
    rw [List.length_cons]
    rcases eq_or_ne p [] with rfl | more
    · rw [List.length_nil]
      omega
    · have := ih more h
      omega

end

/-! ### The entries are paths -/

@[simp] theorem CtEntry.length_code (e : CtEntry) : e.code.length = e.len := length_bitsStr e.len e.val

section
variable {nodes : List Node} {root : Nat} {mem : Memory Node} {entries : List (Nat × CtEntry)}

/-- R153: with one leaf `ASSIGN` writes the fallback code. -/
theorem TreeShape.code_of_single (shape : TreeShape nodes root) (read : ∀ i < nodes.length, mem.read i = nodes[i]?)
    (single : leafCount nodes.length = 1) (h : assignEntries mem root = some entries) :
    ∀ i e, (i, e) ∈ entries → e.code = [false] := by
  have last := shape.rootLast
  have two := shape.root_add_two
  obtain ⟨x, f, leaf⟩ := shape.leaves root (by omega)
  rw [assignEntries, read root (by omega), leaf] at h
  cases h
  intro i e he
  obtain ⟨-, rfl⟩ := Prod.mk.inj (List.mem_singleton.1 he)
  exact codeEntry_code x [false]

/-- R152, R154: with more leaves each code is the path to its leaf. -/
theorem TreeShape.follow_code (shape : TreeShape nodes root) (read : ∀ i < nodes.length, mem.read i = nodes[i]?)
    (many : 1 < leafCount nodes.length) (h : assignEntries mem root = some entries) :
    ∀ i e, (i, e) ∈ entries → follow nodes root e.code = some i := by
  have last := shape.rootLast
  have two := shape.root_add_two
  obtain ⟨l, r, node, -⟩ := shape.internals root (by omega) (by omega)
  obtain ⟨entries', run, memIff⟩ := shape.exists_walk read (Nat.lt_succ_self root) (show root < nodes.length by omega) []
  rw [assignEntries, read root (by omega), node] at h
  cases run.symm.trans h
  intro i e he
  obtain ⟨p, x, f, path, -, rfl⟩ := (memIff _).1 he
  rw [codeEntry_code]
  exact path

end

/-! ### The code table -/

/-- An index that no write of the list names. -/
theorem Memory.read_writeAll_of_notMem {α : Type} {es : List (Nat × α)} (m : Memory α) {i : Nat} (h : ∀ v, (i, v) ∉ es) :
    Memory.read (Memory.writeAll m es) i = Memory.read m i := by
  induction es generalizing m with
  | nil => rfl
  | cons e es ih =>
    obtain ⟨j, w⟩ := e
    have other : i ≠ j := by
      rintro rfl
      exact h w List.mem_cons_self
    rw [Memory.writeAll, ih _ fun v hv => h v (List.mem_cons_of_mem _ hv), Memory.read_write_other m other]

/-- R157 (a), (b): the table has an entry for each leaf, at the leaf's index and with its symbol; its code is the path to the leaf, or the
fallback code where there is one leaf. -/
structure PathCodes (nodes : List Node) (root : Nat) (table : List CtEntry) : Prop where
  length : table.length = leafCount nodes.length
  leaf : ∀ (i : Nat) (e : CtEntry), table[i]? = some e → ∃ f, nodes[i]? = some (.leaf e.sym f)
  path : 1 < table.length → ∀ (i : Nat) (e : CtEntry), table[i]? = some e → follow nodes root e.code = some i
  single : table.length = 1 → ∀ e ∈ table, e.code = [false]

section
variable {nodes : List Node} {root : Nat} {table : List CtEntry}

/-- The symbols of entries that stand at the indices of leaves come first among the leaves' symbols. -/
theorem map_sym_isPrefix_leafSyms {nodes : List Node} {table : List CtEntry}
    (leaf : ∀ (i : Nat) (e : CtEntry), table[i]? = some e → ∃ f, nodes[i]? = some (.leaf e.sym f)) :
    table.map CtEntry.sym <+: leafSyms nodes := by
  induction table generalizing nodes with
  | nil => exact List.nil_prefix
  | cons e table ih =>
    obtain ⟨f, first⟩ := leaf 0 e rfl
    cases nodes with
    | nil => cases first
    | cons node nodes =>
      cases first
      rw [List.map_cons, leafSyms, List.prefix_cons_inj]
      exact ih fun i e he => leaf (i + 1) e he

/-- R157 (c): the symbols are pairwise different where those of the leaves are. -/
theorem PathCodes.nodup_map_sym (codes : PathCodes nodes root table) (distinct : (leafSyms nodes).Nodup) :
    (table.map CtEntry.sym).Nodup :=
  distinct.sublist (map_sym_isPrefix_leafSyms codes.leaf).sublist

/-- R157 (b): with two leaves or more no code is longer than `n - 1`. -/
theorem PathCodes.len_le (codes : PathCodes nodes root table) (shape : TreeShape nodes root) (many : 1 < table.length) {i : Nat}
    {e : CtEntry} (h : table[i]? = some e) : e.len ≤ table.length - 1 := by
  have two := shape.root_add_two
  rw [← codes.length] at two
  rcases eq_or_ne e.code [] with empty | nonempty
  · rw [← e.length_code, empty]
    exact Nat.zero_le _
  · have bound := shape.length_add_leafCount_le nonempty (codes.path many i e h)
    rw [e.length_code, ← codes.length] at bound
    omega

end

/-- R154, R157: on a tree `ASSIGN` finds the entries of a well-formed table of paths, one for each leaf, and no others. -/
theorem TreeShape.exists_pathCodes {nodes : List Node} {root : Nat} (shape : TreeShape nodes root)
    (distinct : (leafSyms nodes).Nodup) {mem : Memory Node} (read : ∀ i < nodes.length, mem.read i = nodes[i]?) :
    ∃ entries table, assignEntries mem root = some entries ∧ (∀ i, Memory.read (Memory.writeAll [] entries) i = table[i]?) ∧
      PathCodes nodes root table ∧ WellFormedCT table := by
  obtain ⟨entries, assigned, codes⟩ := shape.exists_assignEntries read
  obtain ⟨table, written, memEntries⟩ := codes.exists_table
  obtain ⟨length, entry⟩ := (Memory.readRange_eq_some_iff ..).1 written
  have paths : PathCodes nodes root table :=
    { length := length
      leaf := fun i e he => codes.leaf i e (memEntries i e he)
      path := fun many i e he => shape.follow_code read (length ▸ many) assigned i e (memEntries i e he)
      single := fun one e he => by
        obtain ⟨i, hi⟩ := List.mem_iff_getElem?.1 he
        exact shape.code_of_single read (length ▸ one) assigned i e (memEntries i e hi) }
  refine ⟨entries, table, assigned, fun i => ?_, paths, codes.wellFormedCT memEntries (paths.nodup_map_sym distinct)⟩
  rcases Nat.lt_or_ge i (leafCount nodes.length) with hi | hi
  · simpa using entry i hi
  · rw [List.getElem?_eq_none (length ▸ hi)]
    refine Memory.read_writeAll_of_notMem [] fun e he => ?_
    obtain ⟨f, leaf⟩ := codes.leaf i e he
    exact Nat.not_lt.2 hi (shape.lt_leafCount leaf)

/-! ### The command -/

/-- R154: `ASSIGN` with `V_TREE`, where the nodes give entries. -/
theorem exec_assign_of_entries {s : State} {entries : List (Nat × CtEntry)} (valid : s.valid.tree = true)
    (assigned : assignEntries s.node s.root = some entries) :
    exec .assign s = .next ((s.putCT entries (leafCount s.noden)).setErr .ok).goIdle := by
  calc exec .assign s = (assignBody s).outcome := rfl
    _ = (endOk (s.putCT entries (leafCount s.noden))).outcome := by
        rw [assignBody, if_neg (by simp [valid]), assigned, leafCount]
    _ = .next ((s.putCT entries (leafCount s.noden)).setErr .ok).goIdle := rfl

/-- R157: what `ASSIGN` puts on a valid tree. -/
theorem exists_exec_assign {s : State} {nodes : List Node} (valid : s.valid.tree = true) (read : s.nodes = some nodes)
    (shape : TreeShape nodes s.root) (distinct : (leafSyms nodes).Nodup) :
    ∃ entries table, exec .assign s = .next ((s.putCT entries (leafCount s.noden)).setErr .ok).goIdle ∧
      (∀ i, Memory.read (Memory.writeAll [] entries) i = table[i]?) ∧ PathCodes nodes s.root table ∧ WellFormedCT table := by
  obtain ⟨length, node⟩ := (Memory.readRange_eq_some_iff ..).1 read
  obtain ⟨entries, table, assigned, facts⟩ := shape.exists_pathCodes (mem := s.node) distinct fun i hi => by
    simpa using node i (length ▸ hi)
  exact ⟨entries, table, exec_assign_of_entries valid assigned, facts⟩

/-- Settles O32: the entries are the leaves' paths, the table they make up is well-formed, and `ASSIGN` puts it and nothing else. -/
theorem assignCompletes : Obligations.AssignCompletes := by
  unfold Obligations.AssignCompletes
  rintro s nodes valid ⟨nodes', read', shape, distinct, -⟩ read
  obtain rfl := Option.some.inj (read'.symm.trans read)
  obtain ⟨entries, table, run, ct, codes, wf⟩ := exists_exec_assign valid read shape distinct
  have length : table.length = leafCount s.noden := by rw [codes.length, Memory.readRange_length read]
  exact ⟨_, table, run, ct, rfl, length, codes.leaf,
    fun many i e he => ⟨codes.path many i e he, codes.len_le shape many he⟩, codes.single, wf.symbols,
    fun e he => ⟨wf.nonempty e he, wf.fits e he⟩, wf.prefixFree, rfl⟩

/-- Settles O35: `ASSIGN` ends with the one error of a missing tree, or puts `CT` and nothing else. -/
theorem assignFrame : Obligations.AssignFrame := by
  unfold Obligations.AssignFrame
  intro s t h
  change (assignBody s).outcome = .next t at h
  rcases assignBody_cases s with ⟨-, ends⟩ | ⟨-, -, ends⟩ | ⟨entries, -, -, ends⟩ <;> rw [ends] at h
  · obtain rfl := eq_afterError_of_endError h
    exact ⟨rfl, rfl, rfl, rfl, fun _ => ⟨rfl, rfl, rfl⟩⟩
  · cases h
  · cases h
    exact ⟨rfl, rfl, rfl, rfl, fun err => absurd rfl err⟩

end Sys2Proof.Machine
end

section
/-! LEMMAS. Completeness and weighted length of the codes (42_code_assigner.md R157 (f), (g)). Both come from one balance: every
node but the root is the child of one internal node, so a sum over all nodes is a sum over the children of the internal nodes, and
the root. -/

namespace Sys2Proof.Machine

/-! ### Sums over the nodes of a tree -/

/-- A list's sum by its indices. -/
theorem sum_eq_sum_range {l : List Nat} {n : Nat} {w : Nat → Nat} (length : l.length = n) (entry : ∀ i x, l[i]? = some x → x = w i) :
    l.sum = ∑ i ∈ Finset.range n, w i := by
  have same : l = (List.range n).map w :=
    List.ext_getElem (by simp [length]) fun i hi _ => by
      rw [List.getElem_map, List.getElem_range, entry i _ (List.getElem?_eq_getElem hi)]
  rw [same]
  rfl

section
variable {nodes : List Node} {root : Nat}

/-- R138 (d): the nodes are the root and the children, each once. -/
theorem TreeShape.childIndices_perm (shape : TreeShape nodes root) : (root :: childIndices nodes).Perm (List.range nodes.length) := by
  refine (List.perm_ext_iff_of_nodup ?_ List.nodup_range).2 fun i => ?_
  · refine List.nodup_cons.2 ⟨fun child => ?_, shape.nodup_childIndices⟩
    obtain ⟨j, b, h⟩ := exists_isChild_of_mem_childIndices child
    exact shape.not_isChild_root h
  · rw [List.mem_cons, List.mem_range]
    constructor
    · rintro (rfl | child)
      · have := shape.rootLast
        omega
      · obtain ⟨j, b, h⟩ := exists_isChild_of_mem_childIndices child
        obtain ⟨below, top⟩ := shape.lt_of_isChild h
        exact below.trans top
    · intro hi
      by_cases top : i = root
      · exact .inl top
      · exact .inr (List.count_pos_iff.1 (by rw [shape.owned i hi, if_neg top]; exact Nat.one_pos))

/-- The sum over the children, taken at their parents. -/
theorem TreeShape.sum_childIndices (shape : TreeShape nodes root) {v w : Nat → Nat}
    (edge : ∀ k f l r, nodes[k]? = some (.internal f l r) → w l + w r = v k) :
    ((childIndices nodes).map w).sum = ∑ k ∈ Finset.Ico (leafCount nodes.length) nodes.length, v k := by
  have two := shape.root_add_two
  have last := shape.rootLast
  have perNode : ((childIndices nodes).map w).sum =
      ∑ k ∈ Finset.range nodes.length, if leafCount nodes.length ≤ k then v k else 0 := by
    rw [childIndices, List.map_flatMap, List.flatMap, List.sum_flatten, List.map_map]
    refine sum_eq_sum_range (by simp) fun k x hx => ?_
    obtain ⟨node, hk, rfl⟩ := Option.map_eq_some_iff.1 ((List.getElem?_map).symm.trans hx)
    cases node with
    | leaf y f => simp [Node.children, Nat.not_le.2 (shape.lt_leafCount hk)]
    | internal f l r => simp [Node.children, shape.leafCount_le hk, edge k f l r hk]
  rw [perNode, ← Finset.sum_filter]
  refine Finset.sum_congr (Finset.ext fun k => ?_) fun _ _ => rfl
  rw [Finset.mem_filter, Finset.mem_range, Finset.mem_Ico, and_comm]

/-- The balance: with `v` at an internal node the sum of `w` at its children, `w` over leaves and internal nodes is `v` over the internal
nodes and `w` at the root. -/
theorem TreeShape.sum_balance (shape : TreeShape nodes root) {v w : Nat → Nat}
    (edge : ∀ k f l r, nodes[k]? = some (.internal f l r) → w l + w r = v k) :
    ∑ i ∈ Finset.range (leafCount nodes.length), w i + ∑ k ∈ Finset.Ico (leafCount nodes.length) nodes.length, w k =
      w root + ∑ k ∈ Finset.Ico (leafCount nodes.length) nodes.length, v k := by
  have two := shape.root_add_two
  have last := shape.rootLast
  rw [Finset.sum_range_add_sum_Ico w (by omega), ← shape.sum_childIndices edge]
  exact ((shape.childIndices_perm.map w).sum_eq).symm

/-- R93: the path to every node; a child's is its parent's and one step. -/
theorem TreeShape.exists_paths (shape : TreeShape nodes root) :
    ∃ path : Nat → Bits, path root = [] ∧ (∀ i < nodes.length, follow nodes root (path i) = some i) ∧
      ∀ k f l r, nodes[k]? = some (.internal f l r) → path l = path k ++ [false] ∧ path r = path k ++ [true] := by
  have last := shape.rootLast
  choose! path leads using fun i (hi : i < nodes.length) => shape.exists_follow hi
  refine ⟨path, shape.follow_inj (leads root (by omega)) rfl, leads, fun k f l r node => ?_⟩
  have step {b : Bool} {c : Nat} (child : IsChild nodes k b c) : path c = path k ++ [b] := by
    obtain ⟨below, top⟩ := shape.lt_of_isChild child
    exact shape.follow_inj (leads c (below.trans top)) ((follow_concat_iff ..).2 ⟨k, leads k top, child⟩)
  exact ⟨step ⟨f, l, r, node, rfl⟩, step ⟨f, l, r, node, rfl⟩⟩

/-! ### Completeness -/

/-- R157 (f): the weights of the leaves add up to the weight of the root. -/
theorem TreeShape.sum_two_pow (shape : TreeShape nodes root) {path : Nat → Bits} (start : path root = [])
    (leads : ∀ i < nodes.length, follow nodes root (path i) = some i)
    (step : ∀ k f l r, nodes[k]? = some (.internal f l r) → path l = path k ++ [false] ∧ path r = path k ++ [true]) :
    ∑ i ∈ Finset.range (leafCount nodes.length), 2 ^ (leafCount nodes.length - 1 - (path i).length) =
      2 ^ (leafCount nodes.length - 1) := by
  have two := shape.root_add_two
  have balance := shape.sum_balance (v := fun k => 2 ^ (leafCount nodes.length - 1 - (path k).length))
    (w := fun k => 2 ^ (leafCount nodes.length - 1 - (path k).length)) fun k f l r node => by
      obtain ⟨left, right⟩ := step k f l r node
      have hk := (List.getElem?_eq_some_iff.1 node).1
      have long := shape.length_add_leafCount_le (i := root) (j := l) (p := path l) (by rw [left]; simp)
        (leads l ((shape.children_lt node).1.trans hk))
      rw [left, List.length_append, List.length_singleton] at long
      have halves : leafCount nodes.length - 1 - (path k).length = leafCount nodes.length - 1 - ((path k).length + 1) + 1 := by omega
      simp only [left, right, List.length_append, List.length_singleton]
      rw [halves, pow_succ, mul_two]
  simpa [start] using balance

/-- R138 (d): below every node there is a leaf. -/
theorem TreeShape.exists_leaf_below (shape : TreeShape nodes root) {i : Nat} (hi : i < nodes.length) :
    ∃ p j x f, follow nodes i p = some j ∧ nodes[j]? = some (.leaf x f) := by
  induction i using Nat.strong_induction_on with
  | _ i ih =>
    have node : nodes[i]? = some nodes[i] := List.getElem?_eq_getElem hi
    cases kind : nodes[i] with
    | leaf x f => exact ⟨[], i, x, f, rfl, node.trans (congrArg some kind)⟩
    | internal f l r =>
      rw [kind] at node
      have below := (shape.children_lt node).1
      obtain ⟨p, j, x, g, hp, leaf⟩ := ih l below (below.trans hi)
      exact ⟨false :: p, j, x, g, (follow_cons_internal node false p).trans hp, leaf⟩

/-- A bit string leads from a node to a node, or past a leaf. -/
theorem TreeShape.follow_or_leaf (shape : TreeShape nodes root) {i : Nat} (hi : i < nodes.length) (b : Bits) :
    (∃ j, follow nodes i b = some j) ∨ ∃ p j x f, p <+: b ∧ follow nodes i p = some j ∧ nodes[j]? = some (.leaf x f) := by
  induction b generalizing i with
  | nil => exact .inl ⟨i, rfl⟩
  | cons c b ih =>
    have node : nodes[i]? = some nodes[i] := List.getElem?_eq_getElem hi
    cases kind : nodes[i] with
    | leaf x f => exact .inr ⟨[], i, x, f, List.nil_prefix, rfl, node.trans (congrArg some kind)⟩
    | internal f l r =>
      rw [kind] at node
      have below := (shape.lt_of_isChild (b := c) ⟨f, l, r, node, rfl⟩).1
      rcases ih (below.trans hi) with ⟨j, hj⟩ | ⟨p, j, x, g, begins, hp, leaf⟩
      · exact .inl ⟨j, (follow_cons_internal node c b).trans hj⟩
      · exact .inr ⟨c :: p, j, x, g, (List.prefix_cons_inj c).2 begins, (follow_cons_internal node c p).trans hp, leaf⟩

variable {table : List CtEntry}

/-- R157 (b): the path to a leaf is the code of an entry. -/
theorem PathCodes.exists_code_eq (codes : PathCodes nodes root table) (shape : TreeShape nodes root) (many : 1 < table.length)
    {p : Bits} {j x f : Nat} (hp : follow nodes root p = some j) (leaf : nodes[j]? = some (.leaf x f)) : ∃ e ∈ table, e.code = p := by
  have hj : j < table.length := codes.length ▸ shape.lt_leafCount leaf
  exact ⟨table[j], List.getElem_mem hj, shape.follow_inj (codes.path many j _ (List.getElem?_eq_getElem hj)) hp⟩

/-- R157 (f): every bit string is a proper beginning of a code or begins with a code. -/
theorem PathCodes.complete (codes : PathCodes nodes root table) (shape : TreeShape nodes root) (many : 1 < table.length) (b : Bits) :
    (∃ e ∈ table, b <+: e.code ∧ b ≠ e.code) ∨ ∃ e ∈ table, e.code <+: b := by
  have last := shape.rootLast
  rcases shape.follow_or_leaf (show root < nodes.length by omega) b with ⟨i, hi⟩ | ⟨p, j, x, f, begins, hp, leaf⟩
  · have lt : i < nodes.length := by
      induction b using List.reverseRecOn with
      | nil =>
        cases hi
        omega
      | append_singleton b c _ =>
        obtain ⟨j, -, child⟩ := (follow_concat_iff ..).1 hi
        obtain ⟨below, top⟩ := shape.lt_of_isChild child
        exact below.trans top
    obtain ⟨p, j, x, f, hp, leaf⟩ := shape.exists_leaf_below lt
    have whole : follow nodes root (b ++ p) = some j := by rw [follow_append, hi, Option.bind_some, hp]
    obtain ⟨e, he, code⟩ := codes.exists_code_eq shape many whole leaf
    by_cases ends : b = e.code
    · exact .inr ⟨e, he, ends ▸ List.prefix_refl _⟩
    · exact .inl ⟨e, he, code ▸ List.prefix_append b p, ends⟩
  · obtain ⟨e, he, rfl⟩ := codes.exists_code_eq shape many hp leaf
    exact .inr ⟨e, he, begins⟩

/-- R157 (f): the weights of the codes add up to 1. -/
theorem PathCodes.sum_two_pow (codes : PathCodes nodes root table) (shape : TreeShape nodes root) (many : 1 < table.length) :
    (table.map fun e => 2 ^ (table.length - 1 - e.len)).sum = 2 ^ (table.length - 1) := by
  obtain ⟨path, start, leads, step⟩ := shape.exists_paths
  have last := shape.rootLast
  have two := shape.root_add_two
  rw [codes.length, ← shape.sum_two_pow start leads step]
  refine sum_eq_sum_range (by simp [codes.length]) fun i x hx => ?_
  obtain ⟨e, he, rfl⟩ := Option.map_eq_some_iff.1 ((List.getElem?_map).symm.trans hx)
  have hi := (List.getElem?_eq_some_iff.1 he).1
  rw [codes.length] at hi
  rw [← e.length_code, shape.follow_inj (codes.path many i e he) (leads i (by omega))]

/-! ### Weighted length -/

/-- R138 (c): an internal node's frequency is the sum of its children's. -/
theorem TreeShape.freq_add (shape : TreeShape nodes root) {k f l r : Nat} (node : nodes[k]? = some (.internal f l r)) :
    (keyAt nodes l).freq + (keyAt nodes r).freq = (keyAt nodes k).freq := by
  obtain ⟨l', r', node', -⟩ := shape.internals k (shape.leafCount_le node) (List.getElem?_eq_some_iff.1 node).1
  cases node.symm.trans node'
  simp [keyAt, node, Node.freq]

/-- R157 (g): frequencies weighted by path lengths, over the leaves, are the internal nodes' frequencies. -/
theorem TreeShape.sum_freq_mul_length (shape : TreeShape nodes root) {path : Nat → Bits} (start : path root = [])
    (step : ∀ k f l r, nodes[k]? = some (.internal f l r) → path l = path k ++ [false] ∧ path r = path k ++ [true]) :
    ∑ i ∈ Finset.range (leafCount nodes.length), (keyAt nodes i).freq * (path i).length =
      ∑ k ∈ Finset.Ico (leafCount nodes.length) nodes.length, (keyAt nodes k).freq := by
  have balance := shape.sum_balance (v := fun k => (keyAt nodes k).freq * (path k).length + (keyAt nodes k).freq)
    (w := fun k => (keyAt nodes k).freq * (path k).length) fun k f l r node => by
      obtain ⟨left, right⟩ := step k f l r node
      simp only [left, right, List.length_append, List.length_singleton, ← shape.freq_add node]
      ring
  rw [start, List.length_nil, Nat.mul_zero, Nat.zero_add, Finset.sum_add_distrib] at balance
  omega

/-- R157 (g), two leaves or more. -/
theorem PathCodes.sum_freq_mul_len (codes : PathCodes nodes root table) (shape : TreeShape nodes root) (many : 1 < table.length) :
    (List.zipWith (fun n e => n.freq * e.len) (nodes.take table.length) table).sum =
      ((nodes.drop table.length).map Node.freq).sum := by
  obtain ⟨path, start, leads, step⟩ := shape.exists_paths
  have last := shape.rootLast
  have two := shape.root_add_two
  have leaves : (List.zipWith (fun n e => n.freq * e.len) (nodes.take table.length) table).sum =
      ∑ i ∈ Finset.range (leafCount nodes.length), (keyAt nodes i).freq * (path i).length := by
    refine sum_eq_sum_range (by simp [codes.length]; omega) fun i x hx => ?_
    obtain ⟨n, e, hn, he, rfl⟩ := List.getElem?_zipWith_eq_some.1 hx
    have hi := (List.getElem?_eq_some_iff.1 he).1
    rw [List.getElem?_take_of_lt hi] at hn
    rw [codes.length] at hi
    rw [← e.length_code, shape.follow_inj (codes.path many i e he) (leads i (by omega)), keyAt, hn]
    rfl
  have inner : ((nodes.drop table.length).map Node.freq).sum =
      ∑ k ∈ Finset.Ico (leafCount nodes.length) nodes.length, (keyAt nodes k).freq := by
    rw [Finset.sum_Ico_eq_sum_range]
    refine sum_eq_sum_range (by simp [codes.length]) fun i x hx => ?_
    obtain ⟨n, hn, rfl⟩ := Option.map_eq_some_iff.1 ((List.getElem?_map).symm.trans hx)
    rw [List.getElem?_drop, codes.length] at hn
    rw [keyAt, hn]
    rfl
  rw [leaves, inner, shape.sum_freq_mul_length start step]

/-- R157 (g), one leaf: its code is one bit long. -/
theorem PathCodes.sum_freq_of_single (codes : PathCodes nodes root table) (shape : TreeShape nodes root) (one : table.length = 1) :
    (List.zipWith (fun n e => n.freq * e.len) (nodes.take table.length) table).sum = (nodes.map Node.freq).sum := by
  have last := shape.rootLast
  have two := shape.root_add_two
  rw [← codes.length] at two
  obtain ⟨node, rfl⟩ := List.length_eq_one_iff.1 (show nodes.length = 1 by omega)
  obtain ⟨e, rfl⟩ := List.length_eq_one_iff.1 one
  have len : e.len = 1 := by rw [← e.length_code, codes.single rfl e List.mem_cons_self, List.length_singleton]
  simp [len]

end

/-! ### The commands -/

/-- R157: the table that an `ASSIGN` on a tree ended OK with. -/
theorem pathCodes_of_exec_assign {s t : State} {nodes : List Node} {table : List CtEntry} (tree : TreeOk s)
    (read : s.nodes = some nodes) (run : exec .assign s = .next t) (ok : t.err = .ok) (ct : t.ctTable = some table) :
    PathCodes nodes s.root table ∧ TreeShape nodes s.root := by
  obtain ⟨nodes', read', shape, distinct, -⟩ := tree
  obtain rfl := Option.some.inj (read'.symm.trans read)
  have valid : s.valid.tree = true := by
    by_contra missing
    rw [Bool.not_eq_true] at missing
    cases (congrArg Body.outcome (assignBody_of_missing missing)).symm.trans run
    cases ok
  obtain ⟨entries, table', run', written, codes, -⟩ := exists_exec_assign valid read shape distinct
  cases run.symm.trans run'
  have whole : table'.length = leafCount s.noden := by rw [codes.length, Memory.readRange_length read]
  have ct' : Memory.readRange (Memory.writeAll [] entries) 0 (leafCount s.noden) = some table' :=
    (Memory.readRange_eq_some_iff ..).2 ⟨whole, fun k _ => by rw [Nat.zero_add, written]⟩
  cases ct'.symm.trans ct
  exact ⟨codes, shape⟩

/-- Settles O33: the codes are the paths to the leaves, and the leaves of a strictly binary tree leave no path out. -/
theorem codesAreComplete : Obligations.CodesAreComplete := by
  unfold Obligations.CodesAreComplete
  intro s t table tree run ok ct many
  obtain ⟨nodes, read, -⟩ := id tree
  obtain ⟨codes, shape⟩ := pathCodes_of_exec_assign tree read run ok ct
  exact ⟨codes.sum_two_pow shape many, codes.complete shape many⟩

/-- Settles O34: one step of a path for each internal node above the leaf, whose frequency is the sum of those of the leaves below it. -/
theorem weightedCodeLength : Obligations.WeightedCodeLength := by
  unfold Obligations.WeightedCodeLength
  intro s t nodes table tree read run ok ct
  obtain ⟨codes, shape⟩ := pathCodes_of_exec_assign tree read run ok ct
  have two := shape.root_add_two
  rw [← codes.length] at two
  split
  case isTrue one => exact codes.sum_freq_of_single shape one
  case isFalse other => exact codes.sum_freq_mul_len shape (by omega)

end Sys2Proof.Machine
end

section
/-! LEMMAS. The byte-serial packer (43_bit_packer.md R175): what it holds after any bits, in closed form. -/

namespace Sys2Proof.Machine

/-! ### One more bit -/

theorem bitsVal_concat (b : Bits) (x : Bool) : bitsVal (b ++ [x]) = bitsVal b * 2 + x.toNat := by
  rw [bitsVal, List.foldl_append, List.foldl_cons, List.foldl_nil, ← bitsVal, Nat.mul_comm]

/-- An accumulator of less than a byte loses no bit. -/
theorem bitsVal_concat_mod {b : Bits} (x : Bool) (h : b.length < 8) : (bitsVal b * 2 + x.toNat) % 256 = bitsVal (b ++ [x]) := by
  rw [← bitsVal_concat]
  refine Nat.mod_eq_of_lt ((bitsVal_lt _).trans_le ?_)
  rw [List.length_append, List.length_singleton]
  exact Nat.pow_le_pow_right (n := 2) (by omega) (show b.length + 1 ≤ 8 by omega)

/-- R171: the whole groups of a string stay when a bit is added. -/
theorem map_byteOf_range_append (e more : Bits) :
    (List.range (e.length / 8)).map (fun k => byteOf (((e ++ more).drop (8 * k)).take 8)) = packBytes e := by
  refine List.map_congr_left fun k hk => ?_
  have group := List.mem_range.1 hk
  rw [List.drop_append_of_le_length (by omega), List.take_append_of_le_length (by rw [List.length_drop]; omega)]

theorem packBytes_concat_of_not_full {e : Bits} (x : Bool) (h : e.length % 8 + 1 ≠ 8) : packBytes (e ++ [x]) = packBytes e := by
  rw [packBytes, List.length_append, List.length_singleton, show (e.length + 1) / 8 = e.length / 8 by omega]
  exact map_byteOf_range_append e [x]

theorem packBytes_concat_of_full {e : Bits} (x : Bool) (h : e.length % 8 + 1 = 8) :
    packBytes (e ++ [x]) = packBytes e ++ [byteOf (e.drop (8 * (e.length / 8)) ++ [x])] := by
  have last : ((e ++ [x]).drop (8 * (e.length / 8))).take 8 = e.drop (8 * (e.length / 8)) ++ [x] := by
    rw [List.drop_append_of_le_length (by omega)]
    refine List.take_of_length_le ?_
    rw [List.length_append, List.length_drop, List.length_singleton]
    omega
  rw [packBytes, List.length_append, List.length_singleton, show (e.length + 1) / 8 = e.length / 8 + 1 by omega, List.range_succ,
    List.map_append, List.map_singleton, map_byteOf_range_append, last]

/-! ### The invariant -/

/-- R175: the packer after the bits `e`: the whole groups are written, the bits left over are in the accumulator. -/
def serialAfter (e : Bits) : SerialPacker :=
  { acc := bitsVal (e.drop (8 * (e.length / 8))), nacc := e.length % 8, wp := 1 + e.length / 8, lc := e.length,
    written := packBytes e }

theorem emitBit_serialAfter (e : Bits) (x : Bool) : emitBit (serialAfter e) x = serialAfter (e ++ [x]) := by
  have short : (e.drop (8 * (e.length / 8))).length < 8 := by
    rw [List.length_drop]
    omega
  have length : (e ++ [x]).length = e.length + 1 := by simp
  simp only [emitBit, serialAfter, length, bitsVal_concat_mod x short]
  split
  next full =>
    have empty : (e ++ [x]).drop (8 * ((e.length + 1) / 8)) = [] := List.drop_eq_nil_of_le (by omega)
    rw [packBytes_concat_of_full x full, empty, byteOf, show (e.length + 1) % 8 = 0 by omega,
      show (e.length + 1) / 8 = e.length / 8 + 1 by omega]
    rfl
  next room =>
    rw [packBytes_concat_of_not_full x room, show (e.length + 1) / 8 = e.length / 8 by omega,
      show (e.length + 1) % 8 = e.length % 8 + 1 by omega, List.drop_append_of_le_length (by omega)]

theorem emitBits_serialStart (e : Bits) : emitBits serialStart e = serialAfter e := by
  induction e using List.reverseRecOn with
  | nil => rfl
  | append_singleton e x ih =>
    calc emitBits serialStart (e ++ [x]) = emitBit (emitBits serialStart e) x := by simp [emitBits]
      _ = serialAfter (e ++ [x]) := by rw [ih, emitBit_serialAfter]

/-- R175: the code bits and then the padding bits are the padded string. -/
theorem serialPack_eq (bits : Bits) : serialPack bits = serialAfter (padded bits) :=
  calc serialPack bits = emitBits (emitBits serialStart bits) (List.replicate (padding bits.length) false) := by
        rw [serialPack, emitBits_serialStart]
        rfl
    _ = emitBits serialStart (padded bits) := (List.foldl_append ..).symm
    _ = serialAfter (padded bits) := emitBits_serialStart _

/-- Settles O40: the packer holds `serialAfter` of what it was given, which after the padding is whole groups. -/
theorem serialPackerWritesSameBytes : Obligations.SerialPackerWritesSameBytes := by
  unfold Obligations.SerialPackerWritesSameBytes
  refine ⟨fun e => ?_, fun bits => ?_⟩
  · rw [emitBits_serialStart]
    exact ⟨rfl, rfl, rfl, rfl, rfl⟩
  · rw [serialPack_eq, emitBits_serialStart, length_packBytes]
    exact ⟨rfl, by simp [serialAfter, length_padded], rfl, rfl, rfl⟩

end Sys2Proof.Machine
end

section
/-! LEMMAS. The ends of `PACK` (43_bit_packer.md): the first symbol without a code (R167), the frame (R173). With them the stops
of the commands, an ill-formed table (93_implementation_defined.md U3, U4) and an unwritten entry of the input or the payload
(U1), and the frame of `COUNT`. -/

namespace Sys2Proof.Machine

/-! ### Range reads that stop -/

theorem Memory.readRange_concat {α : Type} {m : Memory α} {start : Nat} {vs : List α} {v : α}
    (h : m.readRange start (vs.length + 1) = some (vs ++ [v])) :
    m.readRange start vs.length = some vs ∧ m.read (start + vs.length) = some v := by
  obtain ⟨-, entry⟩ := (Memory.readRange_eq_some_iff ..).1 h
  refine ⟨(Memory.readRange_eq_some_iff ..).2 ⟨rfl, fun k hk => ?_⟩, ?_⟩
  · rw [entry k (by omega), List.getElem?_append_left hk]
  · rw [entry vs.length (by omega), List.getElem?_concat_length]

/-- R44: a range with an unwritten entry cannot be read whole. -/
theorem Memory.readRange_eq_none {α : Type} {m : Memory α} {start n k : Nat} (low : start ≤ k) (high : k < start + n)
    (unwritten : m.read k = none) : m.readRange start n = none := by
  cases read : m.readRange start n with
  | none => rfl
  | some vs =>
    obtain ⟨length, entry⟩ := (Memory.readRange_eq_some_iff ..).1 read
    have written := entry (k - start) (by omega)
    rw [Nat.add_sub_cancel' low, unwritten, eq_comm, List.getElem?_eq_none_iff] at written
    omega

/-! ### The loop over the input, at its end -/

theorem concatCodes_of_unread (table : List CtEntry) {imem : Memory Sym} {j : Nat} (h : imem.read j = none) (n : Nat) (acc : Bits) :
    concatCodes table imem (n + 1) j acc = .unread := by
  rw [concatCodes, h]

theorem concatCodes_of_uncovered {table : List CtEntry} {imem : Memory Sym} {j : Nat} {x : Sym} (read : imem.read j = some x)
    (uncovered : ∀ e ∈ table, e.sym ≠ x) (n : Nat) (acc : Bits) : concatCodes table imem (n + 1) j acc = .uncovered := by
  have missing : lookup table x = none := List.find?_eq_none.2 fun e he => by simpa using uncovered e he
  rw [concatCodes, read]
  simp only [missing]

/-- R168: the loop comes to the first index after covered symbols. -/
theorem concatCodes_after_covered {table : List CtEntry} (wf : WellFormedCT table) {imem : Memory Sym} {es : List CtEntry} {ilen : Nat}
    (covered : ∀ e ∈ es, e ∈ table) (read : imem.readRange 0 es.length = some (es.map CtEntry.sym)) (more : es.length < ilen) :
    ∃ n, concatCodes table imem ilen 0 [] = concatCodes table imem (n + 1) es.length (es.flatMap CtEntry.code) := by
  refine ⟨ilen - es.length - 1, ?_⟩
  have pass := concatCodes_of_covered wf covered read (ilen - es.length - 1 + 1) []
  rwa [show es.length + (ilen - es.length - 1 + 1) = ilen by omega, Nat.zero_add, List.nil_append] at pass

/-! ### PACK -/

/-- Settles O38: the loop passes over the covered symbols and ends at the next one, and the row of `UncoveredSymbol` loses `OUT`. -/
theorem packUncoveredSymbol : Obligations.PackUncoveredSymbol := by
  unfold Obligations.PackUncoveredSymbol
  refine ⟨rfl, fun s table es x valid ct wf covered uncovered more read => ?_⟩
  have read' : s.imem.readRange 0 ((es.map CtEntry.sym).length + 1) = some (es.map CtEntry.sym ++ [x]) := by
    rwa [List.length_map]
  obtain ⟨before, next⟩ := Memory.readRange_concat read'
  rw [List.length_map] at before next
  rw [Nat.zero_add] at next
  obtain ⟨n, pass⟩ := concatCodes_after_covered wf covered before more
  exact congrArg Body.outcome (packBody_of_uncovered valid ct ((wfCT_iff table).2 wf)
    (pass.trans (concatCodes_of_uncovered next uncovered n _)))

/-- R173: bytes of `OMEM` beyond the payload are not written. -/
theorem State.putOUT_read_beyond (s : State) (packed : List Byte) (l p : Nat) {a : Nat} (h : (s.putOUT packed l p).olen ≤ a) :
    Memory.read (s.putOUT packed l p).omem a = Memory.read s.omem a := by
  rw [State.putOUT_olen] at h
  rw [State.putOUT_omem, Memory.read_writeFrom, if_neg]
  rw [List.length_cons]
  omega

/-- Settles O39: the two errors leave `OUT` or lose it, and OK puts it and nothing else. -/
theorem packFrame : Obligations.PackFrame := by
  unfold Obligations.PackFrame
  intro s t h
  change (packBody s).outcome = .next t at h
  rcases packBody_cases s with ⟨-, ends⟩ | ⟨-, -, ends⟩ | ⟨table, -, -, -, ⟨-, ends⟩ | ⟨-, ends⟩ | ⟨bits, -, ends⟩⟩ <;> rw [ends] at h
  · obtain rfl := eq_afterError_of_endError h
    exact ⟨rfl, nofun, fun _ => ⟨rfl, rfl, rfl, rfl, rfl⟩⟩
  · cases h
  · cases h
  · obtain rfl := eq_afterError_of_endError h
    exact ⟨rfl, nofun, nofun⟩
  · cases h
    exact ⟨rfl, fun _ a beyond => s.putOUT_read_beyond _ bits.length _ beyond, nofun⟩

/-! ### Ill-formed tables -/

theorem packBody_of_illFormed {s : State} (valid : s.valid.ct = true) (ct : ∀ table, s.ctTable = some table → wfCT table = false) :
    packBody s = .refused .illFormedCT := by
  rw [packBody, if_neg (by simp [valid])]
  cases read : s.ctTable with
  | none => rfl
  | some table => simp [ct table read]

theorem decodeBody_of_illFormed {s : State} (valid : s.valid.ct = true) (ct : ∀ table, s.ctTable = some table → wfCT table = false) :
    decodeBody s = .refused .illFormedCT := by
  rw [decodeBody, if_neg (by simp [valid])]
  cases read : s.ctTable with
  | none => rfl
  | some table => simp [ct table read]

theorem buildBody_of_illFormed {s : State} (valid : s.valid.ft = true) (nonempty : s.ftn ≠ 0)
    (ft : ∀ table, s.ftTable = some table → wfFT table = false) : buildBody s = .refused .illFormedFT := by
  rw [buildBody, if_neg (by simp [valid]), if_neg nonempty]
  cases read : s.ftTable with
  | none => rfl
  | some table => simp [ft table read]

/-- Settles O28: the commands' checks are `WF_FT` and `WF_CT` (Laws/Tables.lean), and they come right after the valid bit. -/
theorem illFormedTablesRefused : Obligations.IllFormedTablesRefused := by
  unfold Obligations.IllFormedTablesRefused
  refine fun s => ⟨fun valid nonempty ill => ?_, fun valid ill => ?_⟩
  · refine congrArg Body.outcome (buildBody_of_illFormed valid nonempty fun table read => ?_)
    rw [← Bool.not_eq_true, wfFT_iff]
    exact ill table read
  · have ct : ∀ table, s.ctTable = some table → wfCT table = false := fun table read => by
      rw [← Bool.not_eq_true, wfCT_iff]
      exact fun wf => ill table read ⟨wf.symbols, fun e he => ⟨wf.nonempty e he, wf.fits e he⟩, wf.prefixFree⟩
    exact ⟨congrArg Body.outcome (packBody_of_illFormed valid ct), congrArg Body.outcome (decodeBody_of_illFormed valid ct)⟩

/-! ### Unwritten entries -/

theorem countBody_of_unread {s : State} (unread : s.input = none) : countBody s = .fault .unspecifiedRead := by
  rw [countBody, unread]

theorem encodeBody_of_unread {s : State} (unread : s.input = none) : encodeBody s = .fault .unspecifiedRead := by
  have first : countBody s.derivedClear = .fault .unspecifiedRead := countBody_of_unread (s := s.derivedClear) unread
  rw [encodeBody, first]
  rfl

theorem packBody_of_unread {s : State} {table : List CtEntry} (valid : s.valid.ct = true) (ct : s.ctTable = some table)
    (wf : wfCT table = true) (unread : concatCodes table s.imem s.ilen 0 [] = .unread) : packBody s = .fault .unspecifiedRead := by
  rw [packBody, if_neg (by simp [valid]), ct]
  simp only [wf, if_true, unread]

theorem decodePayload_of_unread_header {s : State} (table : List CtEntry) (nonempty : s.olen ≠ 0)
    (unread : Memory.read s.omem 0 = none) : decodePayload s table = .fault .unspecifiedRead := by
  rw [decodePayload, if_neg nonempty, unread]

theorem decodePayload_of_unread_packed {s : State} (table : List CtEntry) {header : Byte} (nonempty : s.olen ≠ 0)
    (head : Memory.read s.omem 0 = some header) (fits : header.toNat ≤ 8)
    (unread : Memory.readRange s.omem 1 (s.olen - 1) = none) : decodePayload s table = .fault .unspecifiedRead := by
  rw [decodePayload, if_neg nonempty, head]
  dsimp only
  rw [if_neg (Nat.not_lt.2 fits), unread]

/-- Settles O25: each command comes to the unwritten entry before anything that would end it otherwise. -/
theorem unspecifiedInputFaults : Obligations.UnspecifiedInputFaults := by
  unfold Obligations.UnspecifiedInputFaults
  refine fun s => ⟨fun unread => ?_, fun table valid ct wf => ?_⟩
  · exact ⟨congrArg Body.outcome (countBody_of_unread unread), congrArg Body.outcome (encodeBody_of_unread unread)⟩
  have check := (wfCT_iff table).2 wf
  have decode := decodeBody_of_ctTable valid ct check
  refine ⟨fun es covered more read unread => ?_, fun nonempty unread => ?_, fun header k head fits low high unread => ?_⟩
  · obtain ⟨n, pass⟩ := concatCodes_after_covered wf covered read more
    exact congrArg Body.outcome (packBody_of_unread valid ct check (pass.trans (concatCodes_of_unread table unread n _)))
  · exact congrArg Body.outcome (decode.trans (decodePayload_of_unread_header table nonempty unread))
  · have tail : Memory.readRange s.omem 1 (s.olen - 1) = none := Memory.readRange_eq_none low (by omega) unread
    exact congrArg Body.outcome (decode.trans (decodePayload_of_unread_packed table (by omega) head fits tail))

/-! ### COUNT -/

/-- Settles O24: `COUNT` raises no error; where it ends it has put `FT` and nothing else. -/
theorem countFrame : Obligations.CountFrame := by
  unfold Obligations.CountFrame
  intro s t h
  change (countBody s).outcome = .next t at h
  rcases countBody_cases s with ⟨-, ends⟩ | ⟨input, -, ends⟩ <;> rw [ends] at h
  · cases h
  · cases h
    rfl

end Sys2Proof.Machine
end

section
/-! LEMMAS. The ends of `ENCODE` (44_encoder_facade.md): on a written non-empty input it leaves a tree, a well-formed table that
covers the input and the input's codes, padded (R185, R187), in the state the four commands end in but for `DLEN` and `V_DEC`. -/

namespace Sys2Proof.Machine

/-! ### The tree that `BUILD` puts -/

section
variable {table : List FtEntry} {nodes : List Node} {pq : List Key}

theorem leafSyms_leaves (table : List FtEntry) : leafSyms (table.map leafOf) = table.map FtEntry.sym := by
  induction table with
  | nil => rfl
  | cons e table ih => rw [List.map_cons, leafOf, leafSyms, ih, List.map_cons]

theorem leafSyms_append_parentOf (nodes : List Node) (a b : Key) : leafSyms (nodes ++ [parentOf a b]) = leafSyms nodes := by
  induction nodes with
  | nil => rfl
  | cons node nodes ih => cases node <;> simp [leafSyms, ih]

/-- R128, R132: the leaves' symbols are those of the table. -/
theorem Merging.leafSyms_eq (h : Merging table nodes pq) : leafSyms nodes = table.map FtEntry.sym := by
  induction h with
  | leaves => exact leafSyms_leaves table
  | merge _ ih => rw [leafSyms_append_parentOf, ih]

/-- R132: a key in the queue has the frequency of a node. -/
theorem Merging.exists_node_of_mem (h : Merging table nodes pq) {k : Key} (hk : k ∈ pq) : ∃ n ∈ nodes, n.freq = k.freq := by
  have lt := h.idx_lt hk
  refine ⟨nodes[k.idx], List.getElem_mem lt, ?_⟩
  have key := congrArg Key.freq (h.keyAt_idx k hk)
  rwa [keyAt, List.getElem?_eq_getElem lt, Option.map_some, Option.getD_some] at key

/-- R138 (e): no frequency is 0 where no count is. -/
theorem Merging.one_le_freq (h : Merging table nodes pq) (positive : ∀ e ∈ table, 1 ≤ e.cnt) : ∀ n ∈ nodes, 1 ≤ n.freq := by
  induction h with
  | leaves =>
    intro n hn
    obtain ⟨e, he, rfl⟩ := List.mem_map.1 hn
    exact positive e he
  | @merge nodes a b rest h ih =>
    intro n hn
    rcases List.mem_append.1 hn with hn | hn
    · exact ih n hn
    · obtain ⟨m, hm, freq⟩ := h.exists_node_of_mem (k := a) List.mem_cons_self
      have pos := ih m hm
      rw [List.mem_singleton.1 hn, parentOf, Node.freq]
      omega

end

/-- R138: what `BUILD` puts for a table that satisfies `WF_FT` is a tree. -/
theorem treeOk_putTREE (s : State) {table : List FtEntry} (nonempty : table ≠ []) (wf : wfFT table = true) :
    TreeOk (s.putTREE (buildTree table).1 (buildTree table).2) := by
  obtain ⟨distinct, positive⟩ := (wfFT_iff table).1 wf
  obtain ⟨nodes, root, tree, h⟩ := exists_buildTree_eq nonempty
  rw [tree]
  exact ⟨nodes, s.putTREE_nodes nodes root.idx, h.treeShape, h.leafSyms_eq ▸ distinct, h.one_le_freq positive⟩

/-! ### OK -/

/-- Settles O41: what the four bodies put for the input (`EncodeResult`) is a tree, a table and a payload as R187 says. -/
theorem encodeCompletes : Obligations.EncodeCompletes := by
  unfold Obligations.EncodeCompletes
  intro s input h nonempty
  obtain ⟨nodes, root, entries, bits, enc⟩ := exists_encodeResult nonempty
  have run := exec_encode_of_input h nonempty enc
  obtain ⟨tree, -, table, es, ct, wf, covered, syms, rfl⟩ := enc
  have treeOk := treeOk_putTREE s (countTable_ne_nil nonempty) (wfFT_countTable input)
  rw [tree] at treeOk
  exact ⟨_, table, es, packBytes (padded (es.flatMap CtEntry.code)), run, rfl, rfl, rfl, rfl, treeOk, ct, wf, syms, covered, rfl, rfl,
    State.putEncoding_payload .., flatMap_bitsOf_packBytes_padded _⟩

/-- Settles O42: each command is its body and `BUSY <- 0`, and what the bodies put does not depend on what `derived_clear` has cleared. -/
theorem encodeIsFourCommands : Obligations.EncodeIsFourCommands := by
  unfold Obligations.EncodeIsFourCommands
  intro s input h nonempty
  obtain ⟨nodes, root, entries, bits, enc⟩ := exists_encodeResult nonempty
  have encode := exec_encode_of_input h nonempty enc
  obtain ⟨tree, assigned, table, es, ct, wf, covered, syms, codes⟩ := enc
  have build := congrArg Body.outcome (buildBody_putFT s.goIdle nonempty tree)
  have assign := congrArg Body.outcome (assignBody_putTREE (s.goIdle.putFT (countTable input)) assigned)
  have pack := congrArg Body.outcome (packBody_of_covered rfl ct wf covered (syms ▸ h) codes :
    packBody ((((s.putFT (countTable input)).putTREE nodes root).putCT entries (leafCount nodes.length)).setErr .ok).goIdle = _)
  exact ⟨_, _, _, _, exec_count_of_input h, build, assign, pack, rfl, encode⟩

/-! ### EmptyInput -/

/-- Settles O43: the state that `derived_clear`, `COUNT` of nothing and the row of `EmptyInput` leave. -/
theorem encodeEmptyInput : Obligations.EncodeEmptyInput := by
  unfold Obligations.EncodeEmptyInput
  exact fun s empty => ⟨_, exec_encode_of_empty empty, rfl, rfl⟩

/-- Settles O45: `ENCODE` stops on an unwritten input, raises `EmptyInput` on an empty one and ends OK on any other. -/
theorem encodeFrame : Obligations.EncodeFrame := by
  unfold Obligations.EncodeFrame
  intro s t h
  by_cases err : t.err = .ok
  · cases read : s.input with
    | none => cases (congrArg Body.outcome (encodeBody_of_unread read)).symm.trans h
    | some input =>
      have nonempty : input ≠ [] := by
        rintro rfl
        have empty : s.ilen = 0 := (Memory.readRange_length read).symm
        cases (exec_encode_of_empty empty).symm.trans h
        cases err
      obtain ⟨nodes, root, entries, bits, enc⟩ := exists_encodeResult nonempty
      cases (exec_encode_of_input read nonempty enc).symm.trans h
      exact ⟨rfl, rfl, .inl rfl, fun _ a beyond => State.putOUT_read_beyond _ (packBytes (padded bits)) bits.length _ beyond, nofun⟩
  · obtain ⟨rfl, -⟩ := exec_encode_error h err
    exact ⟨rfl, rfl, .inr rfl, nofun, fun _ => ⟨rfl, rfl, rfl⟩⟩

end Sys2Proof.Machine
end

section
/-! LEMMAS. The matching loop of `DECODE` (45_decoder.md R200, R201): under `WF_CT` it passes over codes one by one, waits inside
a code and stops where no code can match. -/

namespace Sys2Proof.Machine

/-! ### The searches in a well-formed table -/

section
variable {table : List CtEntry}

theorem WellFormedCT.code_ne_nil (wf : WellFormedCT table) {e : CtEntry} (he : e ∈ table) : e.code ≠ [] := by
  rw [← List.length_pos_iff, e.length_code]
  exact wf.nonempty e he

/-- R35 (d): a code begins no other code. -/
theorem WellFormedCT.eq_of_code_isPrefix (wf : WellFormedCT table) {a b : CtEntry} (ha : a ∈ table) (hb : b ∈ table)
    (begins : a.code <+: b.code) : a = b := by
  by_contra differ
  have symmetric : Std.Symm fun a b : CtEntry => ¬ a.code <+: b.code ∧ ¬ b.code <+: a.code := ⟨fun _ _ => And.symm⟩
  exact (wf.prefixFree.forall ha hb differ).1 begins

/-- R35, R155: an entry is the one its code finds. -/
theorem WellFormedCT.rlookup_code (wf : WellFormedCT table) {e : CtEntry} (he : e ∈ table) : rlookup table e.code = some e := by
  cases found : rlookup table e.code with
  | none => simpa using List.find?_eq_none.1 found e he
  | some x =>
    have code : x.code = e.code := by simpa using List.find?_some found
    rw [wf.eq_of_code_isPrefix (List.mem_of_find?_eq_some found) he (code ▸ List.prefix_refl _)]

/-- A proper beginning of a code is no code. -/
theorem WellFormedCT.rlookup_of_begins (wf : WellFormedCT table) {e : CtEntry} (he : e ∈ table) {q : Bits} (begins : q <+: e.code)
    (proper : q ≠ e.code) : rlookup table q = none := by
  refine List.find?_eq_none.2 fun x hx same => proper ?_
  have code : x.code = q := by simpa using same
  rw [← code, wf.eq_of_code_isPrefix hx he (code ▸ begins)]

theorem beginsCode_iff (table : List CtEntry) (q : Bits) :
    beginsCode table q = true ↔ ∃ e ∈ table, q <+: e.code ∧ q ≠ e.code := by
  simp [beginsCode, ne_comm]

/-! ### The loop -/

/-- R200: the candidate grows as long as it is a proper beginning of a code. -/
theorem matchBits_of_begins (wf : WellFormedCT table) {e : CtEntry} (he : e ∈ table) {acc q : Bits} (begins : acc ++ q <+: e.code)
    (proper : acc ++ q ≠ e.code) (rest : Bits) (out : List Sym) :
    matchBits table (q ++ rest) acc out = matchBits table rest (acc ++ q) out := by
  induction q generalizing acc with
  | nil => rw [List.nil_append, List.append_nil]
  | cons b q ih =>
    rw [List.append_cons] at begins proper
    have shorter : acc ++ [b] <+: e.code := (List.prefix_append _ _).trans begins
    have more : acc ++ [b] ≠ e.code := fun whole => by
      rw [← whole] at begins proper
      exact proper (List.IsPrefix.eq_of_length_le begins (by simp))
    rw [List.cons_append, matchBits, wf.rlookup_of_begins he shorter more, List.append_cons acc b q]
    simp only [(beginsCode_iff table _).2 ⟨e, he, shorter, more⟩, if_true]
    exact ih begins proper

/-- R200: a whole code is taken for its symbol, and the next candidate begins. -/
theorem matchBits_code (wf : WellFormedCT table) {e : CtEntry} (he : e ∈ table) (rest : Bits) (out : List Sym) :
    matchBits table (e.code ++ rest) [] out = matchBits table rest [] (out ++ [e.sym]) := by
  obtain ⟨q, b, code⟩ := (List.eq_nil_or_concat' e.code).resolve_left (wf.code_ne_nil he)
  have begins : [] ++ q <+: e.code := by
    rw [code]
    exact List.prefix_append q [b]
  have proper : [] ++ q ≠ e.code := by simp [code]
  calc matchBits table (e.code ++ rest) [] out
      = matchBits table (q ++ b :: rest) [] out := by rw [code, List.append_assoc, List.singleton_append]
    _ = matchBits table (b :: rest) q out := matchBits_of_begins wf he begins proper _ _
    _ = matchBits table rest [] (out ++ [e.sym]) := by rw [matchBits, ← code, wf.rlookup_code he]

theorem matchBits_codes (wf : WellFormedCT table) {es : List CtEntry} (covered : ∀ e ∈ es, e ∈ table) (rest : Bits) (out : List Sym) :
    matchBits table (es.flatMap CtEntry.code ++ rest) [] out = matchBits table rest [] (out ++ es.map CtEntry.sym) := by
  induction es generalizing out with
  | nil => simp
  | cons e es ih =>
    obtain ⟨first, later⟩ := List.forall_mem_cons.1 covered
    rw [List.flatMap_cons, List.append_assoc, matchBits_code wf first, ih later, List.append_assoc, List.map_cons,
      List.singleton_append]

/-- R201: no code begins with the candidate and the next bit. -/
theorem matchBits_of_unmatchable {b : Bool} {acc : Bits} (h : ∀ e ∈ table, ¬ (acc ++ [b]) <+: e.code) (rest : Bits) (out : List Sym) :
    matchBits table (b :: rest) acc out = .mismatch := by
  have none : rlookup table (acc ++ [b]) = none := List.find?_eq_none.2 fun e he same => by
    have code : e.code = acc ++ [b] := by simpa using same
    exact h e he (code ▸ List.prefix_refl _)
  have stuck : beginsCode table (acc ++ [b]) = false := by
    rw [← Bool.not_eq_true, beginsCode_iff]
    rintro ⟨e, he, begins, -⟩
    exact h e he begins
  rw [matchBits, none]
  simp only [stuck]
  rfl

/-- R201: the bits end inside a code. -/
theorem matchBits_nil_of_ne {acc : Bits} (h : acc ≠ []) (out : List Sym) : matchBits table [] acc out = .leftover := if_neg h

/-- A beginning of a code, or nothing, is kept as the candidate. -/
theorem matchBits_partial (wf : WellFormedCT table) {q : Bits} (h : q = [] ∨ ∃ e ∈ table, q <+: e.code ∧ q ≠ e.code) (rest : Bits)
    (out : List Sym) : matchBits table (q ++ rest) [] out = matchBits table rest q out := by
  rcases h with rfl | ⟨e, he, begins, proper⟩
  · rfl
  · exact matchBits_of_begins (acc := []) wf he begins proper rest out

/-- R202: each symbol found has taken at least one bit, and is a symbol of the table. -/
theorem matchBits_symbols {bits acc : Bits} {out syms : List Sym} (h : matchBits table bits acc out = .symbols syms) :
    syms.length ≤ out.length + bits.length ∧ ∀ x ∈ syms, x ∈ out ∨ ∃ e ∈ table, e.sym = x := by
  induction bits generalizing acc out with
  | nil =>
    rw [matchBits] at h
    split at h
    · cases h
      exact ⟨Nat.le_add_right _ _, fun x hx => .inl hx⟩
    · cases h
  | cons b rest ih =>
    rw [matchBits] at h
    split at h
    next e found =>
      obtain ⟨length, known⟩ := ih h
      rw [List.length_append, List.length_singleton] at length
      refine ⟨by rw [List.length_cons]; omega, fun x hx => ?_⟩
      rcases known x hx with hx | hx
      · rcases List.mem_append.1 hx with hx | hx
        · exact .inl hx
        · exact .inr ⟨e, List.mem_of_find?_eq_some found, (List.mem_singleton.1 hx).symm⟩
      · exact .inr hx
    next missing =>
      split at h
      · obtain ⟨length, known⟩ := ih h
        exact ⟨by rw [List.length_cons]; omega, known⟩
      · cases h

end

end Sys2Proof.Machine
end

section
/-! LEMMAS. `DECODE` as a command (45_decoder.md R197 to R203): its ends on a written payload, its frame, and the round trips. -/

namespace Sys2Proof.Machine

/-! ### The payload -/

/-- R201, R202: how each end of the matching loop ends the command. -/
def Match.bodyEnd (s : State) : Match → Body
  | .symbols out => endOk (s.putDEC out)
  | .mismatch => endError s .tableMismatch
  | .leftover => endError s .decodeCorruption

theorem length_unpackBits (packed : List Byte) : (unpackBits packed).length = 8 * packed.length := by
  rw [unpackBits, List.length_flatMap]
  simp [Nat.mul_comm]

/-- R197: a non-empty payload is a header and the packed bytes. -/
theorem State.payload_eq_cons {s : State} {header : Byte} {packed : List Byte} (h : s.payload = some (header :: packed)) :
    s.olen = packed.length + 1 ∧ Memory.read s.omem 0 = some header ∧ Memory.readRange s.omem 1 (s.olen - 1) = some packed := by
  have length : packed.length + 1 = s.olen := Memory.readRange_length h
  rw [State.payload, ← length] at h
  obtain ⟨head, tail⟩ := (Memory.readRange_succ_eq_some_cons_iff ..).1 h
  exact ⟨length.symm, head, by rw [← length]; exact tail⟩

section
variable {s : State} {table : List CtEntry} {header : Byte} {packed : List Byte}

/-- R198: with a written payload and a header of at most 8 `DECODE` looks at the data. -/
theorem decodeBody_of_payload (valid : s.valid.ct = true) (ct : s.ctTable = some table) (wf : WellFormedCT table)
    (payload : s.payload = some (header :: packed)) (fits : header.toNat ≤ 8) :
    decodeBody s = decodeData s table header.toNat (unpackBits packed) := by
  obtain ⟨olen, head, tail⟩ := State.payload_eq_cons payload
  rw [decodeBody_of_ctTable valid ct ((wfCT_iff table).2 wf),
    decodePayload_of_packed table (by omega) head (Nat.not_lt.2 fits) tail]

/-- R199: the padding is dropped and the rest goes through the matching loop. -/
theorem decodeData_eq (s : State) (table : List CtEntry) {p : Nat} {packed : List Byte} (room : p ≤ 8 * packed.length) {data : Bits}
    (strip : (packed.flatMap bitsOf).take (8 * packed.length - p) = data) :
    decodeData s table p (unpackBits packed) = (matchBits table data [] []).bodyEnd s := by
  have strip' : (unpackBits packed).take ((unpackBits packed).length - p) = data := by rw [length_unpackBits]; exact strip
  rw [decodeData, if_neg (by rw [length_unpackBits]; omega), strip']
  cases matchBits table data [] [] <;> rfl

/-- R202: data that are a concatenation of codes. -/
theorem decodeBody_of_codes (valid : s.valid.ct = true) (ct : s.ctTable = some table) (wf : WellFormedCT table)
    (payload : s.payload = some (header :: packed)) (fits : header.toNat ≤ 8) (room : header.toNat ≤ 8 * packed.length)
    {es : List CtEntry} (covered : ∀ e ∈ es, e ∈ table)
    (data : (packed.flatMap bitsOf).take (8 * packed.length - header.toNat) = es.flatMap CtEntry.code) :
    decodeBody s = endOk (s.putDEC (es.map CtEntry.sym)) := by
  have found : matchBits table (es.flatMap CtEntry.code) [] [] = .symbols (es.map CtEntry.sym) := by
    simpa [matchBits] using matchBits_codes wf covered [] []
  rw [decodeBody_of_payload valid ct wf payload fits, decodeData_eq s table room data, found, Match.bodyEnd]

end

/-! ### The ends -/

/-- Settles O46: the loop passes over the codes, and `DECODE` puts their symbols. -/
theorem decodeCompletes : Obligations.DecodeCompletes := by
  unfold Obligations.DecodeCompletes
  intro s table es header packed valid ct wf payload fits room covered data
  refine ⟨_, congrArg Body.outcome (decodeBody_of_codes valid ct wf payload fits room covered data), fun i => ?_, ?_⟩
  · simp [Memory.read_entriesFrom]
  · rw [← List.length_map (f := CtEntry.sym)]
    rfl

/-- Settles O47: an empty payload and a header above 8 end the command before the packed bytes; a header alone is shorter than its padding. -/
theorem decodeHeaderErrors : Obligations.DecodeHeaderErrors := by
  unfold Obligations.DecodeHeaderErrors
  intro s table header valid ct wf h
  have decode := decodeBody_of_ctTable valid ct ((wfCT_iff table).2 wf)
  have ends : decodePayload s table = endError s .decodeCorruption := by
    rw [decodePayload]
    rcases h with empty | ⟨nonempty, head, large⟩ | ⟨one, head, short⟩
    · exact if_pos empty
    · rw [if_neg nonempty, head]
      exact if_pos large
    · rw [if_neg (by omega), head, one]
      dsimp only
      split
      · rfl
      · exact if_pos short
  exact congrArg Body.outcome (decode.trans ends)

/-- Settles O48: after the codes the loop holds `q` as its candidate, and either the data end or the next bit fits no code. -/
theorem decodeDataErrors : Obligations.DecodeDataErrors := by
  unfold Obligations.DecodeDataErrors
  intro s table es header packed q valid ct wf payload fits room covered candidate
  have decode := decodeBody_of_payload valid ct wf payload fits
  have loop (rest : Bits) :
      matchBits table (es.flatMap CtEntry.code ++ q ++ rest) [] [] = matchBits table rest q (es.map CtEntry.sym) := by
    rw [List.append_assoc, matchBits_codes wf covered, matchBits_partial wf candidate, List.nil_append]
  refine ⟨fun more data => ?_, fun b rest unmatchable data => ?_⟩
  · have found := loop []
    rw [List.append_nil, matchBits_nil_of_ne more] at found
    rw [decodeData_eq s table room data, found] at decode
    exact congrArg Body.outcome decode
  · have found := loop ([b] ++ rest)
    rw [← List.append_assoc, List.singleton_append, matchBits_of_unmatchable unmatchable] at found
    rw [decodeData_eq s table room data, found] at decode
    exact congrArg Body.outcome decode

/-- R202, R244: a written payload never stops `DECODE`. -/
theorem decodePayload_of_written {s : State} (table : List CtEntry) {bytes : List Byte} (payload : s.payload = some bytes) :
    (∃ r : ErrorRow, r.IsDataError ∧ decodePayload s table = endError s r) ∨
    ∃ syms, decodePayload s table = endOk (s.putDEC syms) ∧ syms.length ≤ 8 * (s.olen - 1) ∧ ∀ x ∈ syms, ∃ e ∈ table, e.sym = x := by
  cases bytes with
  | nil =>
    have empty : s.olen = 0 := (Memory.readRange_length payload).symm
    exact .inl ⟨_, .inl rfl, if_pos empty⟩
  | cons header packed =>
    obtain ⟨olen, head, tail⟩ := State.payload_eq_cons payload
    by_cases large : 8 < header.toNat
    · refine .inl ⟨_, .inl rfl, ?_⟩
      rw [decodePayload, if_neg (by omega), head]
      exact if_pos large
    rw [decodePayload_of_packed table (by omega) head large tail]
    by_cases short : 8 * packed.length < header.toNat
    · exact .inl ⟨_, .inl rfl, if_pos (by rwa [length_unpackBits])⟩
    rw [decodeData_eq s table (Nat.le_of_not_lt short) rfl]
    cases found : matchBits table ((packed.flatMap bitsOf).take (8 * packed.length - header.toNat)) [] [] with
    | mismatch => exact .inl ⟨_, .inr rfl, rfl⟩
    | leftover => exact .inl ⟨_, .inl rfl, rfl⟩
    | symbols syms =>
      obtain ⟨bound, known⟩ := matchBits_symbols found
      refine .inr ⟨syms, rfl, bound.trans ?_, fun x hx => (known x hx).resolve_left List.not_mem_nil⟩
      rw [List.length_take, List.length_nil]
      omega

/-- R44: a payload that is not written whole stops `DECODE`, or its header is above 8. -/
theorem decodePayload_of_unwritten {s : State} (table : List CtEntry) (payload : s.payload = none) :
    decodePayload s table = .fault .unspecifiedRead ∨ decodePayload s table = endError s .decodeCorruption := by
  have nonempty : s.olen ≠ 0 := fun empty => by
    rw [State.payload, empty, Memory.readRange_zero] at payload
    cases payload
  cases head : Memory.read s.omem 0 with
  | none => exact .inl (decodePayload_of_unread_header table nonempty head)
  | some header =>
    by_cases large : 8 < header.toNat
    · refine .inr ?_
      rw [decodePayload, if_neg nonempty, head]
      exact if_pos large
    · refine .inl (decodePayload_of_unread_packed table nonempty head (Nat.le_of_not_lt large) ?_)
      cases tail : Memory.readRange s.omem 1 (s.olen - 1) with
      | none => rfl
      | some packed =>
        have written := (Memory.readRange_succ_eq_some_cons_iff ..).2 ⟨head, tail⟩
        rw [Nat.sub_add_cancel (Nat.pos_of_ne_zero nonempty)] at written
        cases payload.symm.trans written

/-- Settles O49: the two data errors or OK, where each symbol has taken a bit. -/
theorem decodeAlwaysEnds : Obligations.DecodeAlwaysEnds := by
  unfold Obligations.DecodeAlwaysEnds
  intro s table bytes valid ct wf payload
  have decode := decodeBody_of_ctTable valid ct ((wfCT_iff table).2 wf)
  rcases decodePayload_of_written table payload with ⟨r, row, ends⟩ | ⟨syms, ends, bound, -⟩
  · refine ⟨_, congrArg Body.outcome (decode.trans ends), .inr ?_⟩
    rcases row with rfl | rfl
    · exact ⟨.inl rfl, rfl, rfl, rfl⟩
    · exact ⟨.inr rfl, rfl, rfl, rfl⟩
  · exact ⟨_, congrArg Body.outcome (decode.trans ends), .inl ⟨rfl, rfl, bound⟩⟩

/-- Settles O50: the missing table changes `ERR` only, a data error loses `DEC`, and OK puts it and nothing else. -/
theorem decodeFrame : Obligations.DecodeFrame := by
  unfold Obligations.DecodeFrame
  intro s t h
  change (decodeBody s).outcome = .next t at h
  rcases decodeBody_cases s with ⟨-, ends⟩ | ⟨-, ends⟩ | ⟨-, ends⟩ | ⟨valid, ends | ends⟩ | ⟨out, valid, ends⟩ <;> rw [ends] at h <;>
    cases h
  · exact ⟨rfl, fun _ => ⟨rfl, rfl, rfl⟩⟩
  · exact ⟨rfl, by simp [valid]⟩
  · exact ⟨rfl, by simp [valid]⟩
  · exact ⟨rfl, by simp [valid]⟩

/-! ### The round trips -/

/-- R168: where the loop covers the whole input, the input is written and the string is that of its codes. -/
theorem exists_covering_of_concatCodes {table : List CtEntry} {imem : Memory Sym} {n j : Nat} {acc bits : Bits}
    (h : concatCodes table imem n j acc = .bits bits) :
    ∃ es : List CtEntry, (∀ e ∈ es, e ∈ table) ∧ imem.readRange j n = some (es.map CtEntry.sym) ∧
      bits = acc ++ es.flatMap CtEntry.code := by
  induction n generalizing j acc with
  | zero =>
    cases h
    exact ⟨[], by simp, rfl, by simp⟩
  | succ n ih =>
    rw [concatCodes] at h
    split at h
    · cases h
    next x read =>
      split at h
      · cases h
      next e found =>
        obtain ⟨es, covered, rest, rfl⟩ := ih h
        have sym : e.sym = x := by simpa using List.find?_some found
        refine ⟨e :: es, List.forall_mem_cons.2 ⟨List.mem_of_find?_eq_some found, covered⟩, ?_, by simp⟩
        exact (Memory.readRange_succ_eq_some_cons_iff ..).2 ⟨sym ▸ read, rest⟩

/-- R169: a padding length fits the header's byte. -/
theorem toNat_ofNat_padding (l : Nat) : (BitVec.ofNat 8 (padding l)).toNat = padding l := by
  rw [BitVec.toNat_ofNat, Nat.mod_eq_of_lt]
  rw [padding]
  omega

/-- R203: `DECODE` on a packed payload gives the symbols of the codes that were packed. -/
theorem decodeBody_of_packed {s : State} {table es : List CtEntry} (valid : s.valid.ct = true) (ct : s.ctTable = some table)
    (wf : WellFormedCT table) (covered : ∀ e ∈ es, e ∈ table) {bits : Bits} (codes : bits = es.flatMap CtEntry.code)
    (payload : s.payload = some (BitVec.ofNat 8 (padding bits.length) :: packBytes (padded bits))) :
    decodeBody s = endOk (s.putDEC (es.map CtEntry.sym)) := by
  have pad : (BitVec.ofNat 8 (padding bits.length)).toNat = padding bits.length := toNat_ofNat_padding _
  have small : padding bits.length ≤ 8 := Nat.sub_le _ _
  have length := length_padded bits
  rw [padded, List.length_append, List.length_replicate] at length
  refine decodeBody_of_codes valid ct wf payload (pad.trans_le small) ?_ covered ?_ <;> rw [pad, length_packBytes_padded]
  · omega
  · rw [flatMap_bitsOf_packBytes_padded, ← codes, padded]
    exact List.take_left' (by omega)

/-- Settles O51: `PACK` has packed the codes of its input, and left the table that `DECODE` reads. -/
theorem roundTripPackDecode : Obligations.RoundTripPackDecode := by
  unfold Obligations.RoundTripPackDecode
  intro s t h ok
  change (packBody s).outcome = .next t at h
  rcases packBody_cases s with ⟨-, ends⟩ | ⟨-, -, ends⟩ |
    ⟨table, valid, ct, wf, ⟨-, ends⟩ | ⟨-, ends⟩ | ⟨bits, concat, ends⟩⟩ <;> rw [ends] at h <;> cases h
  · cases ok
  · cases ok
  · obtain ⟨es, covered, input, codes⟩ := exists_covering_of_concatCodes concat
    rw [List.nil_append] at codes
    have length : (es.map CtEntry.sym).length = s.ilen := Memory.readRange_length input
    have decode := decodeBody_of_packed (s := ((s.putOUT (packBytes (padded bits)) bits.length (padding bits.length)).setErr .ok).goIdle)
      valid ct ((wfCT_iff table).1 wf) covered codes (State.putOUT_payload s _ bits.length _)
    exact ⟨_, congrArg Body.outcome decode, rfl, rfl, length, (Memory.readRange_entriesFrom _).trans input.symm,
      congrArg Option.isSome input⟩

/-- Settles O52: `ENCODE` leaves a payload of its input's codes and the table they come from. -/
theorem roundTripEncodeDecode : Obligations.RoundTripEncodeDecode := by
  unfold Obligations.RoundTripEncodeDecode
  intro s input h nonempty
  obtain ⟨nodes, root, entries, bits, enc⟩ := exists_encodeResult nonempty
  have encode := exec_encode_of_input h nonempty enc
  obtain ⟨-, -, table, es, ct, wf, covered, syms, codes⟩ := enc
  obtain ⟨length, entry⟩ := (Memory.readRange_eq_some_iff ..).1 h
  have decode := decodeBody_of_packed (s := ((s.derivedClear.putEncoding input nodes root entries bits).setErr .ok).goIdle)
    rfl ct wf covered codes (State.putEncoding_payload ..)
  rw [syms] at decode
  refine ⟨_, _, encode, congrArg Body.outcome decode, rfl, rfl, length, Memory.readRange_entriesFrom input, fun j hj => ⟨?_, rfl⟩⟩
  have read : s.imem.read j = input[j]? := by simpa using entry j hj
  exact Eq.trans (by simp [Memory.read_entriesFrom]) read.symm

end Sys2Proof.Machine
end

section
/-! LEMMAS. The formats of memory entries (30_encoding.md R89 to R91): fields put side by side are read back one by one. -/

namespace Sys2Proof.Machine

/-! ### Two fields side by side -/

section
variable {a b m n : Nat}

theorem fields_div (h : b < m) : (a * m + b) / m = a := by
  rw [Nat.mul_comm, Nat.mul_add_div (Nat.zero_lt_of_lt h), Nat.div_eq_of_lt h, Nat.add_zero]

theorem fields_lt (ha : a < 2 ^ m) (hb : b < 2 ^ n) : a * 2 ^ n + b < 2 ^ (m + n) :=
  calc a * 2 ^ n + b < (a + 1) * 2 ^ n := by rw [Nat.succ_mul]; exact Nat.add_lt_add_left hb _
    _ ≤ 2 ^ m * 2 ^ n := Nat.mul_le_mul_right _ ha
    _ = 2 ^ (m + n) := (pow_add 2 m n).symm

theorem div_two_pow_lt {v : Nat} (h : v < 2 ^ (m + n)) : v / 2 ^ n < 2 ^ m :=
  Nat.div_lt_of_lt_mul (by rwa [← pow_add, Nat.add_comm n])

end

/-! ### The three formats -/

section
variable (p : Params)

/-- R89. -/
theorem decodeFt_encodeFt {e : FtEntry} (fits : e.fits p) : decodeFt p (encodeFt p e) = e := by
  obtain ⟨-, hcnt⟩ := fits
  simp only [decodeFt, encodeFt, fields_div hcnt, Nat.mul_add_mod_of_lt hcnt]

theorem encodeFt_lt {e : FtEntry} (fits : e.fits p) : encodeFt p e < 2 ^ ftWidth p := fields_lt fits.1 fits.2

theorem decodeFt_fits {v : Nat} (h : v < 2 ^ ftWidth p) : (decodeFt p v).fits p := ⟨div_two_pow_lt h, Nat.mod_lt _ (Nat.two_pow_pos _)⟩

theorem encodeFt_decodeFt (v : Nat) : encodeFt p (decodeFt p v) = v := Nat.div_add_mod' v _

/-- R91. -/
theorem decodeCt_encodeCt {e : CtEntry} (fits : e.fits p) : decodeCt p (encodeCt p e) = e := by
  obtain ⟨-, hlen, hval⟩ := fits
  simp only [decodeCt, encodeCt, fields_div hval, Nat.mul_add_mod_of_lt hval, fields_div hlen, Nat.mul_add_mod_of_lt hlen]

theorem encodeCt_lt {e : CtEntry} (fits : e.fits p) : encodeCt p e < 2 ^ ctWidth p := by
  obtain ⟨hsym, hlen, hval⟩ := fits
  exact fields_lt (fields_lt hsym hlen) hval

theorem decodeCt_fits {v : Nat} (h : v < 2 ^ ctWidth p) : (decodeCt p v).fits p :=
  ⟨div_two_pow_lt (div_two_pow_lt h), Nat.mod_lt _ (Nat.two_pow_pos _), Nat.mod_lt _ (Nat.two_pow_pos _)⟩

theorem encodeCt_decodeCt (v : Nat) : encodeCt p (decodeCt p v) = v := by
  simp only [encodeCt, decodeCt, Nat.div_add_mod']

/-- R90: the five fields are read back, and the tag tells the form. -/
theorem decodeNode_nodeNumber (tag : Nat) {sym freq left right : Nat} (hsym : sym < 2 ^ p.symW) (hfreq : freq < 2 ^ p.freqW)
    (hleft : left < 2 ^ p.idxW) (hright : right < 2 ^ p.idxW) :
    decodeNode p (nodeNumber p tag sym freq left right) = if tag = 0 then .leaf sym freq else .internal freq left right := by
  simp only [decodeNode, nodeNumber, fields_div hright, fields_div hleft, fields_div hfreq, fields_div hsym,
    Nat.mul_add_mod_of_lt hright, Nat.mul_add_mod_of_lt hleft, Nat.mul_add_mod_of_lt hfreq, Nat.mul_add_mod_of_lt hsym]

theorem nodeNumber_lt {tag sym freq left right : Nat} (htag : tag < 2) (hsym : sym < 2 ^ p.symW) (hfreq : freq < 2 ^ p.freqW)
    (hleft : left < 2 ^ p.idxW) (hright : right < 2 ^ p.idxW) :
    nodeNumber p tag sym freq left right < 2 ^ (1 + p.symW + p.freqW + 2 * p.idxW) := by
  rw [two_mul, ← Nat.add_assoc]
  exact fields_lt (fields_lt (fields_lt (fields_lt htag hsym) hfreq) hleft) hright

/-- R90: whatever stands in the fields that the form does not have. -/
theorem decodeNode_encodeNode (x y : Nat) {n : Node} (fits : n.fits p) :
    decodeNode p (encodeNode p x y n) = n ∧ encodeNode p x y n < 2 ^ (1 + p.symW + p.freqW + 2 * p.idxW) := by
  have cut (z w : Nat) : z % 2 ^ w < 2 ^ w := Nat.mod_lt _ (Nat.two_pow_pos _)
  cases n with
  | leaf sym freq =>
    obtain ⟨hsym, hfreq⟩ := fits
    exact ⟨decodeNode_nodeNumber p 0 hsym hfreq (cut _ _) (cut _ _), nodeNumber_lt p (by decide) hsym hfreq (cut _ _) (cut _ _)⟩
  | internal freq left right =>
    obtain ⟨hfreq, hleft, hright⟩ := fits
    exact ⟨decodeNode_nodeNumber p 1 (cut _ _) hfreq hleft hright, nodeNumber_lt p (by decide) (cut _ _) hfreq hleft hright⟩

/-- R90: the places of the fields, from the top: tag, `sym`, `freq`, `left`, `right`. -/
theorem nodeNumber_eq (tag sym freq left right : Nat) :
    nodeNumber p tag sym freq left right =
      tag * 2 ^ (p.symW + (p.lenW + p.symW) + 2 * (p.symW + 1)) + sym * 2 ^ (p.lenW + p.symW + 2 * (p.symW + 1)) +
        freq * 2 ^ (2 * (p.symW + 1)) + left * 2 ^ (p.symW + 1) + right := by
  rw [nodeNumber, Params.freqW, Params.idxW]
  ring

/-- R44, R90: a leaf has some numbers for children. -/
theorem exists_encodeNode_leaf_eq (x y sym freq : Nat) :
    ∃ left right, left < 2 ^ (p.symW + 1) ∧ right < 2 ^ (p.symW + 1) ∧ encodeNode p x y (.leaf sym freq) =
      sym * 2 ^ (p.lenW + p.symW + 2 * (p.symW + 1)) + freq * 2 ^ (2 * (p.symW + 1)) + left * 2 ^ (p.symW + 1) + right := by
  refine ⟨x % 2 ^ (p.symW + 1), y % 2 ^ (p.symW + 1), Nat.mod_lt _ (Nat.two_pow_pos _), Nat.mod_lt _ (Nat.two_pow_pos _), ?_⟩
  rw [encodeNode, nodeNumber_eq, Nat.zero_mul, Nat.zero_add, Params.idxW]

/-- R44, R90: an internal node has some number for a symbol. -/
theorem exists_encodeNode_internal_eq (x y freq left right : Nat) :
    ∃ sym, sym < 2 ^ p.symW ∧ encodeNode p x y (.internal freq left right) =
      2 ^ (p.symW + (p.lenW + p.symW) + 2 * (p.symW + 1)) + sym * 2 ^ (p.lenW + p.symW + 2 * (p.symW + 1)) +
        freq * 2 ^ (2 * (p.symW + 1)) + left * 2 ^ (p.symW + 1) + right := by
  refine ⟨x % 2 ^ p.symW, Nat.mod_lt _ (Nat.two_pow_pos _), ?_⟩
  rw [encodeNode, nodeNumber_eq, Nat.one_mul]

/-- R91: the places of the fields, from the top: `sym`, `len`, `val`. -/
theorem encodeCt_eq (e : CtEntry) :
    encodeCt p e = e.sym * 2 ^ (p.symW + (2 ^ p.symW - 1)) + e.len * 2 ^ (2 ^ p.symW - 1) + e.val := by
  rw [encodeCt, Params.clenW, Params.clenMax, Params.nsymMax, pow_add]
  ring

theorem decodeCt_eq (v : Nat) :
    decodeCt p v = { sym := v / 2 ^ (p.symW + (2 ^ p.symW - 1)), len := v / 2 ^ (2 ^ p.symW - 1) % 2 ^ p.symW,
                     val := v % 2 ^ (2 ^ p.symW - 1) } := by
  rw [decodeCt, Nat.div_div_eq_div_mul, Params.clenW, Params.clenMax, Params.nsymMax, ← pow_add, Nat.add_comm]

theorem ctWidth_eq : ctWidth p = 2 * p.symW + (2 ^ p.symW - 1) := by
  rw [ctWidth, Params.clenW, Params.clenMax, Params.nsymMax, two_mul]

end

/-- Settles O3: each format is fields side by side, cut again at the same places. -/
theorem entryFormatsRoundTrip : Obligations.EntryFormatsRoundTrip := by
  unfold Obligations.EntryFormatsRoundTrip
  exact ⟨fun p e fits => ⟨decodeFt_encodeFt p fits, encodeFt_lt p fits⟩, fun p v h => ⟨decodeFt_fits p h, encodeFt_decodeFt p v⟩,
    fun p e fits => ⟨decodeCt_encodeCt p fits, encodeCt_lt p fits⟩, fun p v h => ⟨decodeCt_fits p h, encodeCt_decodeCt p v⟩,
    fun p x y n => decodeNode_encodeNode p x y⟩

end Sys2Proof.Machine
end

section
/-! LEMMAS. The host's accesses to memories (20_memory.md R60, R66 to R68). -/

namespace Sys2Proof.Machine

/-! ### Reads -/

section
variable {s : State} {mem n i : Nat}

/-- R67: a read of an entry that holds a value. -/
theorem hostAccess_readMem {v : Nat} (entries : memEntries s.par mem = some n) (inside : i < n) (value : entryValue s mem i = some v) :
    hostAccess s (.readMem mem i) = .next { s with reads := s.reads ++ [v], fresh := s.fresh + 2 } := by
  rw [hostAccess, hostReadMem, entries]
  dsimp only
  rw [if_neg (Nat.not_le.2 inside), value]
  rfl

/-- R44: a read of an entry that holds none. -/
theorem hostAccess_readMem_unspecified (entries : memEntries s.par mem = some n) (inside : i < n) (value : entryValue s mem i = none) :
    hostAccess s (.readMem mem i) = .fault .unspecifiedRead := by
  rw [hostAccess, hostReadMem, entries]
  dsimp only
  rw [if_neg (Nat.not_le.2 inside), value]

/-- R68: accesses at or beyond the number of entries. -/
theorem hostAccess_writeMem_beyond (entries : memEntries s.par mem = some n) (beyond : n ≤ i) (v : Nat) :
    hostAccess s (.writeMem mem i v) = .refused .indexOutOfRange := by
  rw [hostAccess]
  unfold hostWriteMem
  rw [entries]
  exact if_pos beyond

theorem hostAccess_readMem_beyond (entries : memEntries s.par mem = some n) (beyond : n ≤ i) :
    hostAccess s (.readMem mem i) = .refused .indexOutOfRange := by
  rw [hostAccess, hostReadMem, entries]
  exact if_pos beyond

end

/-- Settles O21: each memory's entry value, with the fields of the format at their places. -/
theorem hostMemoryReads : Obligations.HostMemoryReads := by
  unfold Obligations.HostMemoryReads
  intro s i
  refine ⟨fun x hi read => ?_, fun e hi read => ?_, fun n hi read => ?_, fun e hi read => ?_, fun b hi read => ?_, fun x hi read => ?_,
    fun hi read => ?_, fun hi read => ?_, fun hi read => ?_, fun hi read => ?_, fun hi read => ?_, fun hi read => ?_⟩
  · exact hostAccess_readMem rfl hi read
  · exact hostAccess_readMem rfl hi (congrArg (Option.map (encodeFt s.par)) read)
  · have value : entryValue s 2 i = some (encodeNode s.par (Config.freeBits s.fresh) (Config.freeBits (s.fresh + 1)) n) :=
      congrArg (Option.map (encodeNode s.par (Config.freeBits s.fresh) (Config.freeBits (s.fresh + 1)))) read
    refine ⟨_, hostAccess_readMem rfl hi value, fun fits => (decodeNode_encodeNode s.par _ _ fits).1, ?_, ?_⟩
    · rintro x f rfl
      exact exists_encodeNode_leaf_eq s.par _ _ x f
    · rintro f l r rfl
      exact exists_encodeNode_internal_eq s.par _ _ f l r
  · rw [← encodeCt_eq]
    exact hostAccess_readMem rfl hi (congrArg (Option.map (encodeCt s.par)) read)
  · exact hostAccess_readMem rfl hi (congrArg (Option.map BitVec.toNat) read)
  · exact hostAccess_readMem rfl hi read
  · exact hostAccess_readMem_unspecified rfl hi read
  · exact hostAccess_readMem_unspecified rfl hi (congrArg (Option.map _) read)
  · exact hostAccess_readMem_unspecified rfl hi (congrArg (Option.map _) read)
  · exact hostAccess_readMem_unspecified rfl hi (congrArg (Option.map _) read)
  · exact hostAccess_readMem_unspecified rfl hi (congrArg (Option.map _) read)
  · exact hostAccess_readMem_unspecified rfl hi read

/-! ### Writes -/

section
variable {s : State} {i : Nat}

/-- R60: an access inside `IMEM`, `FT`, `CT` or `OMEM` is a write of that memory. -/
theorem hostAccess_writeMem_imem (inside : i < s.par.nMax) (v : Nat) : hostAccess s (.writeMem 0 i v) = writeIMEM s i v :=
  if_neg (Nat.not_le.2 inside)
theorem hostAccess_writeMem_ft (inside : i < s.par.nsymMax) (v : Nat) : hostAccess s (.writeMem 1 i v) = writeFT s i v :=
  if_neg (Nat.not_le.2 inside)
theorem hostAccess_writeMem_ct (inside : i < s.par.nsymMax) (v : Nat) : hostAccess s (.writeMem 3 i v) = writeCT s i v :=
  if_neg (Nat.not_le.2 inside)
theorem hostAccess_writeMem_omem (inside : i < s.par.oMax) (v : Nat) : hostAccess s (.writeMem 4 i v) = writeOMEM s i v :=
  if_neg (Nat.not_le.2 inside)

end

/-- Settles O18: each writable memory takes the entry that the number is in the memory's format. -/
theorem hostMemoryWrites : Obligations.HostMemoryWrites := by
  unfold Obligations.HostMemoryWrites
  refine fun s i v => ⟨fun hi hv => ?_, fun hi hv => ?_, fun hi hv => ?_, fun hi hv => ?_⟩
  · exact ⟨_, (hostAccess_writeMem_imem hi v).trans (if_neg (Nat.not_le.2 hv)), rfl, fun j => Memory.read_write ..⟩
  · exact ⟨_, (hostAccess_writeMem_ft hi v).trans (if_neg (Nat.not_le.2 hv)), rfl, fun j => Memory.read_write ..⟩
  · rw [← ctWidth_eq] at hv
    refine ⟨_, (hostAccess_writeMem_ct hi v).trans (if_neg (Nat.not_le.2 hv)), rfl, fun j => ?_⟩
    rw [← decodeCt_eq]
    exact Memory.read_write ..
  · exact ⟨_, (hostAccess_writeMem_omem hi v).trans (if_neg (Nat.not_le.2 hv)), rfl, fun j => Memory.read_write ..⟩

end Sys2Proof.Machine
end

section
/-! LEMMAS. The host's accesses to registers (10_state.md section 2), command words and `STATUS` (30_encoding.md R85 to R88,
10_state.md R21, R22). -/

namespace Sys2Proof.Machine

/-! ### Command words -/

/-- R86: decoding inverts encoding, and nothing else decodes to a command. -/
theorem decodeWord_eq_command_iff (w : Byte) (i : Instr) : decodeWord w = .command i ↔ encodeWord i = w := by
  constructor
  · intro h
    unfold decodeWord at h
    split at h <;> cases h <;> next word => exact BitVec.eq_of_toNat_eq word.symm
  · rintro rfl
    cases i <;> rfl

/-- R86, R88: the words of commands are 1 to 7. -/
theorem exists_command_iff (w : Byte) : (∃ i, decodeWord w = .command i) ↔ 1 ≤ w.toNat ∧ w.toNat ≤ 7 := by
  constructor
  · rintro ⟨i, h⟩
    by_contra outside
    obtain ⟨why, illegal⟩ := decodeWord_illegal (w := w) (by omega)
    cases illegal.symm.trans h
  · intro inside
    simp only [decodeWord_eq_command_iff]
    rcases (show w.toNat = 1 ∨ w.toNat = 2 ∨ w.toNat = 3 ∨ w.toNat = 4 ∨ w.toNat = 5 ∨ w.toNat = 6 ∨ w.toNat = 7 by omega) with
      h | h | h | h | h | h | h
    · exact ⟨.clear, BitVec.eq_of_toNat_eq h.symm⟩
    · exact ⟨.count, BitVec.eq_of_toNat_eq h.symm⟩
    · exact ⟨.build, BitVec.eq_of_toNat_eq h.symm⟩
    · exact ⟨.assign, BitVec.eq_of_toNat_eq h.symm⟩
    · exact ⟨.pack, BitVec.eq_of_toNat_eq h.symm⟩
    · exact ⟨.encode, BitVec.eq_of_toNat_eq h.symm⟩
    · exact ⟨.decode, BitVec.eq_of_toNat_eq h.symm⟩

/-- Settles O1: the seven words by evaluation, and the words of commands are 1 to 7. -/
theorem commandWordsDecode : Obligations.CommandWordsDecode := by
  unfold Obligations.CommandWordsDecode
  exact ⟨rfl, rfl, rfl, rfl, rfl, rfl, rfl, exists_command_iff⟩

/-- R85, R86: the two checks leave the words 1 to 7. -/
theorem wellFormedWord_iff (w : Byte) : wellFormedWord w = true ↔ 1 ≤ w.toNat ∧ w.toNat ≤ 7 := by
  simp only [wellFormedWord, highBitsZero, opcodeNamed, Bool.and_eq_true, beq_iff_eq, bne_iff_ne]
  omega

/-- Settles O2: `decodeWord` and `encodeWord` are inverse, and both checks and decoding single out the words 1 to 7. -/
theorem decodeEncodeCommand : Obligations.DecodeEncodeCommand := by
  unfold Obligations.DecodeEncodeCommand
  have same (w : Byte) : wellFormedWord w = true ↔ ∃ i, decodeWord w = .command i :=
    (wellFormedWord_iff w).trans (exists_command_iff w).symm
  have back (i : Instr) : decodeWord (encodeWord i) = .command i := (decodeWord_eq_command_iff ..).2 rfl
  exact ⟨fun i => ⟨back i, (same _).2 ⟨i, back i⟩⟩, fun w i => (decodeWord_eq_command_iff w i).1, same⟩

/-! ### Writes of registers -/

/-- R21: a write of a word that decodes starts the command of that word. -/
theorem writeCMD_of_command (s : State) {v : Nat} {i : Instr} (lt : v < 256) (h : decodeWord (BitVec.ofNat 8 v) = .command i) :
    writeCMD s v = .next { s with cmd := some (BitVec.ofNat 8 v) } := by
  rw [writeCMD, if_neg (Nat.not_le.2 lt), h]

/-- Settles O7: register 0 is `CMD`, and the words 1 to 7 decode. -/
theorem commandWriteStartsCommand : Obligations.CommandWriteStartsCommand := by
  unfold Obligations.CommandWriteStartsCommand
  intro s v low high
  have same : (BitVec.ofNat 8 v).toNat = v := by rw [BitVec.toNat_ofNat, Nat.mod_eq_of_lt (by omega)]
  obtain ⟨i, h⟩ := (exists_command_iff (BitVec.ofNat 8 v)).2 (by omega)
  exact ⟨_, writeCMD_of_command s (by omega) h, rfl, rfl⟩

/-- Settles O16: each length register takes a value within its bound, with its event of R42. -/
theorem hostLengthWrites : Obligations.HostLengthWrites := by
  unfold Obligations.HostLengthWrites
  refine fun s v => ⟨fun h => ?_, fun h => ?_, fun h => ?_, fun h => ?_⟩
  · exact if_neg (Nat.not_le.2 h)
  · exact if_neg (Nat.not_lt.2 h)
  · exact if_neg (Nat.not_lt.2 h)
  · exact if_neg (Nat.not_lt.2 h)

/-- Settles O17: these registers and memories have no arm that writes. -/
theorem hostReadOnlyWritesNoEffect : Obligations.HostReadOnlyWritesNoEffect := by
  unfold Obligations.HostReadOnlyWritesNoEffect
  refine fun s v => ⟨fun r h => ?_, fun i h => ?_, fun i h => ?_⟩
  · rcases h with rfl | rfl | rfl | rfl | rfl | rfl <;> rfl
  · exact if_neg (Nat.not_le.2 h)
  · exact if_neg (Nat.not_le.2 h)

/-! ### Reads of registers -/

/-- R67: a read of a register that there is. -/
theorem hostAccess_readReg {s : State} {r v : Nat} (value : regValue s r = some v) :
    hostAccess s (.readReg r) = .next { s with reads := s.reads ++ [v] } := by
  rw [hostAccess, hostReadReg, value]
  rfl

/-- Settles O20: the eleven values of `regValue`. -/
theorem hostRegisterReads : Obligations.HostRegisterReads := by
  unfold Obligations.HostRegisterReads
  refine ⟨fun s r v h => hostAccess_readReg ?_, fun s => rfl⟩
  simp only [List.mem_cons, List.not_mem_nil, Prod.mk.injEq, or_false] at h
  rcases h with ⟨rfl, rfl⟩ | ⟨rfl, rfl⟩ | ⟨rfl, rfl⟩ | ⟨rfl, rfl⟩ | ⟨rfl, rfl⟩ | ⟨rfl, rfl⟩ | ⟨rfl, rfl⟩ | ⟨rfl, rfl⟩ | ⟨rfl, rfl⟩ |
    ⟨rfl, rfl⟩ | ⟨rfl, rfl⟩ <;> rfl

/-- Settles O19: a number above 10 names no register, and bounds are checked before anything is written. -/
theorem hostOutOfRangeRefused : Obligations.HostOutOfRangeRefused := by
  unfold Obligations.HostOutOfRangeRefused
  refine fun s v => ⟨fun r h => ?_, fun m n i entries beyond => ?_, fun h => ⟨if_pos h, if_pos h⟩, fun h => if_pos h⟩
  · obtain ⟨k, rfl⟩ := Nat.exists_eq_add_of_lt h
    rw [show 10 + k + 1 = k + 11 by omega]
    exact ⟨rfl, rfl⟩
  · exact ⟨hostAccess_writeMem_beyond entries beyond v, hostAccess_readMem_beyond entries beyond⟩

/-! ### STATUS -/

/-- The number that `statusWord` cuts to 12 bits. -/
def statusNumber (s : State) : Nat :=
  s.busy.toNat + 2 * s.valid.ft.toNat + 4 * s.valid.tree.toNat + 8 * s.valid.ct.toNat + 16 * s.valid.out.toNat +
    32 * s.valid.dec.toNat + 256 * s.err.code

theorem ErrCode.code_lt (e : ErrCode) : e.code < 8 := by cases e <;> decide

/-- The number of `STATUS` fits its 12 bits. -/
theorem toNat_statusWord (s : State) : (statusWord s).toNat = statusNumber s := by
  have code := s.err.code_lt
  have busy := s.busy.toNat_le
  have ft := s.valid.ft.toNat_le
  have tree := s.valid.tree.toNat_le
  have ct := s.valid.ct.toNat_le
  have out := s.valid.out.toNat_le
  have dec := s.valid.dec.toNat_le
  rw [statusWord, BitVec.toNat_ofNat]
  refine Nat.mod_eq_of_lt ?_
  omega

theorem getLsbD_statusWord (s : State) {k : Nat} {b : Bool} (h : statusNumber s / 2 ^ k % 2 = b.toNat) :
    (statusWord s).getLsbD k = b := by
  rw [← BitVec.testBit_toNat, toNat_statusWord, Nat.testBit_eq_decide_div_mod_eq, h]
  cases b <;> rfl

/-- Settles O15: the word is a number with one binary digit for each field, and `ERR` above them. -/
theorem statusWordFields : Obligations.StatusWordFields := by
  unfold Obligations.StatusWordFields
  refine ⟨fun s => ?_, rfl, rfl, rfl, rfl, rfl, rfl, rfl, rfl⟩
  have busy := s.busy.toNat_le
  have ft := s.valid.ft.toNat_le
  have tree := s.valid.tree.toNat_le
  have ct := s.valid.ct.toNat_le
  have out := s.valid.out.toNat_le
  have dec := s.valid.dec.toNat_le
  rw [toNat_statusWord]
  refine ⟨getLsbD_statusWord s ?_, getLsbD_statusWord s ?_, getLsbD_statusWord s ?_, getLsbD_statusWord s ?_, getLsbD_statusWord s ?_,
    getLsbD_statusWord s ?_, getLsbD_statusWord s ?_, getLsbD_statusWord s ?_, ?_⟩ <;> simp only [statusNumber, Bool.toNat_false] <;> omega

end Sys2Proof.Machine
end

section
/-! LEMMAS. What a step can do, said once: a command's body goes through elementary moves, each of which puts or loses one
structure, and a host access is one move of the host's. What every move keeps, every step keeps. -/

namespace Sys2Proof.Machine

/-! ### The moves -/

/-- The elementary moves of commands, each with what its command has found out by then. -/
inductive Move : State → State → Prop
  | derivedClear (s : State) : Move s s.derivedClear
  | dropInput (s : State) : Move s { s with ilen := 0 }
  | ok (s : State) : Move s (s.setErr .ok)
  | raise (s : State) (r : ErrorRow) : Move s (raiseError s r)
  | putFT {s : State} {input : List Sym} (read : s.input = some input) : Move s (s.putFT (countTable input))
  | putTREE {s : State} {table : List FtEntry} (valid : s.valid.ft = true) (ft : s.ftTable = some table) (nonempty : table ≠ [])
      (wf : wfFT table = true) : Move s (s.putTREE (buildTree table).1 (buildTree table).2)
  | putCT {s : State} {entries : List (Nat × CtEntry)} (valid : s.valid.tree = true)
      (assigned : assignEntries s.node s.root = some entries) : Move s (s.putCT entries (leafCount s.noden))
  | putOUT {s : State} {table : List CtEntry} {bits : Bits} (valid : s.valid.ct = true) (ct : s.ctTable = some table)
      (concat : concatCodes table s.imem s.ilen 0 [] = .bits bits) :
      Move s (s.putOUT (packBytes (padded bits)) bits.length (padding bits.length))
  | putDEC {s : State} {table : List CtEntry} {syms : List Sym} (ct : s.ctTable = some table) (bound : syms.length ≤ 8 * (s.olen - 1))
      (known : ∀ x ∈ syms, ∃ e ∈ table, e.sym = x) : Move s (s.putDEC syms)

/-- The moves of the host, and those of the model's own fields and of `CMD`. -/
inductive HostMove : State → State → Prop
  | outside (s : State) (cmd : Option Byte) (script : List HostAccess) (reads : List Nat) (fresh : Nat) :
      HostMove s { s with cmd := cmd, script := script, reads := reads, fresh := fresh }
  | hardReset (s : State) : HostMove s (hardReset s)
  | illegal (s : State) : HostMove s (raiseError s .illegalCommand)
  | ilen {s : State} {v : Nat} (fits : v < 2 ^ s.par.lenW) : HostMove s { s with ilen := v }
  | ftn {s : State} {v : Nat} (bound : v ≤ s.par.nsymMax) : HostMove s { s with ftn := v, valid := s.valid.afterFT }
  | ctn {s : State} {v : Nat} (bound : v ≤ s.par.nsymMax) : HostMove s { s with ctn := v, valid := s.valid.afterCT }
  | olen {s : State} {v : Nat} (bound : v ≤ s.par.oMax) : HostMove s { s with olen := v, valid := s.valid.loseOUT }
  | imem {s : State} {i v : Nat} (inside : i < s.par.nMax) (fits : v < 2 ^ s.par.symW) : HostMove s { s with imem := s.imem.write i v }
  | ft {s : State} {i v : Nat} (inside : i < s.par.nsymMax) (fits : v < 2 ^ ftWidth s.par) :
      HostMove s { s with ft := s.ft.write i (decodeFt s.par v), valid := s.valid.loseFT }
  | ct {s : State} {i v : Nat} (inside : i < s.par.nsymMax) (fits : v < 2 ^ ctWidth s.par) :
      HostMove s { s with ct := s.ct.write i (decodeCt s.par v), valid := s.valid.loseCT }
  | omem {s : State} {i : Nat} (b : Byte) (inside : i < s.par.oMax) :
      HostMove s { s with omem := Memory.write s.omem i b, valid := s.valid.loseOUT }

/-! ### The bodies go through moves -/

/-- Where the body ends, OK or in an error, moves have led there from `s`. -/
def Body.MovesFrom (s : State) (b : Body) : Prop := ∀ u, b = .done u ∨ b = .raised u → Relation.ReflTransGen Move s u

theorem Body.movesFrom_fault (s : State) (r : Fault) : (Body.fault r).MovesFrom s := by
  rintro u (h | h) <;> cases h

theorem Body.movesFrom_refused (s : State) (r : Refusal) : (Body.refused r).MovesFrom s := by
  rintro u (h | h) <;> cases h

theorem movesFrom_endError (s : State) (r : ErrorRow) : (endError s r).MovesFrom s := by
  rintro u (h | h)
  · cases h
  · cases h
    exact .single (.raise s r)

theorem movesFrom_endOk {s u : State} (move : Move s u) : (endOk u).MovesFrom s := by
  rintro v (h | h)
  · cases h
    exact .tail (.single move) (.ok u)
  · cases h

/-- R185: a sequence of bodies goes through the moves of one after the other. -/
theorem Body.MovesFrom.andThen {s : State} {b : Body} {next : State → Body} (first : b.MovesFrom s)
    (second : ∀ u, (next u).MovesFrom u) : (b.andThen next).MovesFrom s := by
  rcases b.andThen_cases next with ⟨u, done, run⟩ | ⟨-, stop⟩
  · rw [run]
    exact fun v ends => (first u (.inl done)).trans (second u v ends)
  · rwa [stop]

theorem countBody_movesFrom (s : State) : (countBody s).MovesFrom s := by
  rcases countBody_cases s with ⟨-, ends⟩ | ⟨input, read, ends⟩ <;> rw [ends]
  · exact Body.movesFrom_fault s _
  · exact movesFrom_endOk (.putFT read)

theorem buildBody_movesFrom (s : State) : (buildBody s).MovesFrom s := by
  rcases buildBody_cases s with ⟨-, ends⟩ | ⟨-, -, ends⟩ | ⟨-, -, -, ends⟩ | ⟨table, valid, ftn, ft, wf, ends⟩ <;> rw [ends]
  · exact movesFrom_endError s _
  · exact movesFrom_endError s _
  · exact Body.movesFrom_refused s _
  · refine movesFrom_endOk (.putTREE valid ft (fun empty => ftn ?_) wf)
    rw [← Memory.readRange_length ft, empty, List.length_nil]

theorem assignBody_movesFrom (s : State) : (assignBody s).MovesFrom s := by
  rcases assignBody_cases s with ⟨-, ends⟩ | ⟨-, -, ends⟩ | ⟨entries, valid, assigned, ends⟩ <;> rw [ends]
  · exact movesFrom_endError s _
  · exact Body.movesFrom_fault s _
  · exact movesFrom_endOk (.putCT valid assigned)

theorem packBody_movesFrom (s : State) : (packBody s).MovesFrom s := by
  rcases packBody_cases s with ⟨-, ends⟩ | ⟨-, -, ends⟩ |
    ⟨table, valid, ct, -, ⟨-, ends⟩ | ⟨-, ends⟩ | ⟨bits, concat, ends⟩⟩ <;> rw [ends]
  · exact movesFrom_endError s _
  · exact Body.movesFrom_refused s _
  · exact Body.movesFrom_fault s _
  · exact movesFrom_endError s _
  · exact movesFrom_endOk (.putOUT valid ct concat)

theorem decodePayload_movesFrom {s : State} {table : List CtEntry} (ct : s.ctTable = some table) :
    (decodePayload s table).MovesFrom s := by
  cases payload : s.payload with
  | none =>
    rcases decodePayload_of_unwritten table payload with ends | ends <;> rw [ends]
    · exact Body.movesFrom_fault s _
    · exact movesFrom_endError s _
  | some bytes =>
    rcases decodePayload_of_written table payload with ⟨r, -, ends⟩ | ⟨syms, ends, bound, known⟩ <;> rw [ends]
    · exact movesFrom_endError s r
    · exact movesFrom_endOk (.putDEC ct bound known)

theorem decodeBody_movesFrom (s : State) : (decodeBody s).MovesFrom s := by
  cases valid : s.valid.ct with
  | false =>
    rw [decodeBody_of_missing valid]
    exact movesFrom_endError s _
  | true =>
    by_cases wf : ∃ table, s.ctTable = some table ∧ wfCT table = true
    · obtain ⟨table, ct, wf⟩ := wf
      rw [decodeBody_of_ctTable valid ct wf]
      exact decodePayload_movesFrom ct
    · rw [decodeBody_of_illFormed valid fun table ct => Bool.eq_false_iff.2 fun h => wf ⟨table, ct, h⟩]
      exact Body.movesFrom_refused s _

theorem encodeBody_movesFrom (s : State) : (encodeBody s).MovesFrom s := by
  refine Body.MovesFrom.andThen (.andThen (.andThen (fun u ends => ?_) buildBody_movesFrom) assignBody_movesFrom) packBody_movesFrom
  exact .head (.derivedClear s) (countBody_movesFrom s.derivedClear u ends)

theorem clearBody_movesFrom (s : State) : (clearBody s).MovesFrom s := fun u ends =>
  .head (.derivedClear s) (movesFrom_endOk (.dropInput s.derivedClear) u ends)

theorem exists_moves_of_outcome {s t : State} {b : Body} (moves : b.MovesFrom s) (h : b.outcome = .next t) :
    ∃ u, Relation.ReflTransGen Move s u ∧ t = u.goIdle := by
  obtain ⟨u, ends, rfl⟩ := Body.outcome_eq_next h
  exact ⟨u, moves u ends, rfl⟩

/-- R10: a command is moves and then `BUSY <- 0`. -/
theorem exists_moves_of_runCommand {s t : State} {w : Byte} (h : runCommand s w = .next t) :
    ∃ u, Relation.ReflTransGen Move s u ∧ t = u.goIdle := by
  rw [runCommand] at h
  split at h
  next i _ =>
    cases i with
    | clear => exact exists_moves_of_outcome (clearBody_movesFrom s) h
    | count => exact exists_moves_of_outcome (countBody_movesFrom s) h
    | build => exact exists_moves_of_outcome (buildBody_movesFrom s) h
    | assign => exact exists_moves_of_outcome (assignBody_movesFrom s) h
    | pack => exact exists_moves_of_outcome (packBody_movesFrom s) h
    | encode => exact exists_moves_of_outcome (encodeBody_movesFrom s) h
    | decode => exact exists_moves_of_outcome (decodeBody_movesFrom s) h
  next => exact exists_moves_of_outcome (movesFrom_endError s _) h

/-! ### A host access is a move -/

/-- A check that refuses or goes on. -/
theorem next_of_ite {c : Prop} [Decidable c] {r : Refusal} {u t : State} (h : (if c then .refused r else .next u : HostOutcome) = .next t) :
    ¬ c ∧ u = t := by
  split at h
  · cases h
  next hc => exact ⟨hc, Host.Outcome.next.inj h⟩

theorem hostMove_of_writeReg {s t : State} {reg v : Nat} (h : hostWriteReg s reg v = .next t) : HostMove s t := by
  have same {u : State} (h : (.next s : HostOutcome) = .next u) : HostMove s u := by
    cases h
    exact .outside s s.cmd s.script s.reads s.fresh
  unfold hostWriteReg at h
  split at h
  · rw [writeCMD] at h
    split at h
    · cases h
    · split at h <;> cases h
      · exact .outside s _ s.script s.reads s.fresh
      · exact .illegal s
  · exact same h
  · obtain ⟨fits, rfl⟩ := next_of_ite h
    exact .ilen (Nat.lt_of_not_le fits)
  · obtain ⟨bound, rfl⟩ := next_of_ite h
    exact .ftn (Nat.le_of_not_lt bound)
  · exact same h
  · exact same h
  · obtain ⟨bound, rfl⟩ := next_of_ite h
    exact .ctn (Nat.le_of_not_lt bound)
  · exact same h
  · exact same h
  · obtain ⟨bound, rfl⟩ := next_of_ite h
    exact .olen (Nat.le_of_not_lt bound)
  · exact same h
  · cases h

theorem hostMove_of_writeMem {s t : State} {mem i v : Nat} (h : hostWriteMem s mem i v = .next t) : HostMove s t := by
  unfold hostWriteMem at h
  split at h
  · cases h
  next n entries =>
    split at h
    · cases h
    next inside =>
      rw [Nat.not_le] at inside
      split at h
      · cases entries
        obtain ⟨fits, rfl⟩ := next_of_ite h
        exact .imem inside (Nat.lt_of_not_le fits)
      · cases entries
        obtain ⟨fits, rfl⟩ := next_of_ite h
        exact .ft inside (Nat.lt_of_not_le fits)
      · cases entries
        obtain ⟨fits, rfl⟩ := next_of_ite h
        exact .ct inside (Nat.lt_of_not_le fits)
      · cases entries
        obtain ⟨-, rfl⟩ := next_of_ite h
        exact .omem _ inside
      · cases h
        exact .outside s s.cmd s.script s.reads s.fresh

theorem hostMove_of_readReg {s t : State} {reg : Nat} (h : hostReadReg s reg = .next t) : HostMove s t := by
  unfold hostReadReg at h
  split at h <;> cases h
  exact .outside s s.cmd s.script _ s.fresh

theorem hostMove_of_readMem {s t : State} {mem i : Nat} (h : hostReadMem s mem i = .next t) : HostMove s t := by
  unfold hostReadMem at h
  split at h
  · cases h
  split at h
  · cases h
  split at h <;> cases h
  exact .outside s s.cmd s.script _ _

theorem hostMove_of_hostAccess {s t : State} {a : HostAccess} (h : hostAccess s a = .next t) : HostMove s t := by
  cases a with
  | writeReg reg v => exact hostMove_of_writeReg h
  | writeMem mem i v => exact hostMove_of_writeMem h
  | readReg reg => exact hostMove_of_readReg h
  | readMem mem i => exact hostMove_of_readMem h
  | pollStatus => exact hostMove_of_readReg (reg := 1) h
  | hardReset =>
    cases h
    exact .hardReset s

/-! ### What every move keeps -/

section
variable {P : State → Prop}

theorem moves_keep (move : ∀ s t, Move s t → P s → P t) {s t : State} (h : Relation.ReflTransGen Move s t) (hs : P s) : P t := by
  induction h with
  | refl => exact hs
  | tail _ last ih => exact move _ _ last ih

/-- What every move keeps, every step keeps. -/
theorem step_keeps (move : ∀ s t, Move s t → P s → P t) (host : ∀ s t, HostMove s t → P s → P t) {s t : State} (hs : P s)
    (h : step s = .next t) : P t := by
  have script (rest : List HostAccess) : P (s.withScript rest) := host s _ (.outside s s.cmd rest s.reads s.fresh) hs
  rcases step_cases s with ⟨-, -, run⟩ | ⟨a, rest, -, -, run⟩ | ⟨w, rest, -, -, run⟩ | ⟨w, rest, -, -, run⟩ | ⟨w, -, -, run⟩ <;>
    rw [run] at h
  · cases h
    exact hs
  · exact host _ t (hostMove_of_hostAccess h) (script rest)
  · cases h
    exact host _ _ (.outside s s.cmd rest _ _) hs
  · cases h
    exact host _ _ (.hardReset _) (script rest)
  · obtain ⟨u, moves, rfl⟩ := exists_moves_of_runCommand h
    exact host u _ (.outside u none u.script u.reads u.fresh) (moves_keep move moves hs)

end

end Sys2Proof.Machine
end

section
/-! LEMMAS. The order of events (20_memory.md R69 to R73, 70_reset_and_hazards.md R235, R236): commands, polls, resets, held
accesses. -/

namespace Sys2Proof.Machine

/-! ### Commands -/

theorem step_of_running {s : State} {w : Byte} (running : s.cmd = some w) (free : s.interrupted = false) : step s = runCommand s w := by
  rcases step_cases s with ⟨idle, -⟩ | ⟨a, rest, idle, -⟩ | ⟨w', rest, -, head, -⟩ | ⟨w', rest, -, head, -⟩ | ⟨w', running', -, run⟩
  · cases idle.symm.trans running
  · cases idle.symm.trans running
  · rw [State.interrupted, head] at free
    cases free
  · rw [State.interrupted, head] at free
    cases free
  · cases running'.symm.trans running
    exact run

theorem runCommand_of_command (s : State) {w : Byte} {i : Instr} (h : decodeWord w = .command i) : runCommand s w = exec i s := by
  rw [runCommand, h]

theorem decodeWord_of_decodeTableWord {w : Nat} {i : Instr} (h : decodeTableWord 8 w = some i) :
    decodeWord (BitVec.ofNat 8 w) = .command i := by
  unfold decodeTableWord at h
  split at h
  · split at h
    next j word => rw [word, Option.some.inj h]
    · cases h
  · cases h

/-- Dropping polls and resets leaves nothing that lands during the command. -/
theorem State.interrupted_startCommand (s : State) (w : Byte) : (s.startCommand w).interrupted = false := by
  rw [State.interrupted, State.startCommand_script]
  split
  · rfl
  next a rest head =>
    by_contra during
    have first := List.head_dropWhile_not HostAccess.duringCommand (l := s.script) (by rw [head]; exact List.cons_ne_nil _ _)
    simp only [head, List.head_cons] at first
    exact during first

/-- Settles O8: with nothing that lands during the command the event is the command, and `withFetchWord` leaves nothing such. -/
theorem stepRunsDecodedCommand : Obligations.StepRunsDecodedCommand := by
  unfold Obligations.StepRunsDecodedCommand
  refine ⟨fun s w i running word free => ?_, fun s nbits w i word => ⟨?_, rfl⟩⟩
  · rw [step_of_running running free, runCommand_of_command s word]
  · rw [step_of_running (s := s.withFetchWord nbits w) rfl (s.interrupted_startCommand _),
      runCommand_of_command _ (decodeWord_of_decodeTableWord word)]

/-! ### The host while no command runs -/

theorem step_of_idle {s : State} {a : HostAccess} {rest : List HostAccess} (idle : s.cmd = none) (head : s.script = a :: rest) :
    step s = hostAccess (s.withScript rest) a := by
  rw [step, nextEvent, idle, head]

/-- Settles O9: the two arms of `nextEvent` for an idle block. -/
theorem hostAccessIsOneStep : Obligations.HostAccessIsOneStep := by
  unfold Obligations.HostAccessIsOneStep
  refine ⟨fun s a rest => step_of_idle, fun s idle empty => ?_⟩
  rw [step, nextEvent, idle, empty]

/-- The moves of commands leave the host's script alone. -/
theorem Move.script_eq {s t : State} (h : Move s t) : t.script = s.script := by
  cases h with
  | raise r => cases r <;> rfl
  | _ => rfl

/-- Settles O10: the access is no event that lands during the command, so the step is the command, whose moves leave the script alone. -/
theorem heldAccessWaitsForCommand : Obligations.HeldAccessWaitsForCommand := by
  unfold Obligations.HeldAccessWaitsForCommand
  intro s t w a rest running head waits h
  have free : s.interrupted = false := by rw [State.interrupted, head]; exact waits
  rw [step_of_running running free] at h
  obtain ⟨u, moves, rfl⟩ := exists_moves_of_runCommand h
  have script : u.script = a :: rest :=
    moves_keep (P := fun u => u.script = a :: rest) (fun _ _ move kept => move.script_eq.trans kept) moves head
  exact ⟨script, rfl, step_of_idle rfl script⟩

/-! ### Polls and resets -/

/-- R22: a poll while a command runs reads `BUSY = 1`, whatever the free value. -/
theorem getLsbD_busyStatusWord (x : Nat) : (busyStatusWord x).getLsbD 0 = true := by
  rw [busyStatusWord, BitVec.getLsbD_ofNat, Nat.testBit_zero]
  simp only [Nat.zero_lt_succ, decide_true, Bool.true_and, decide_eq_true_eq]
  omega

theorem step_of_poll {s : State} {w : Byte} {rest : List HostAccess} (running : s.cmd = some w) (head : s.script = .pollStatus :: rest) :
    step s = .next (pollBusy (s.withScript rest)) := by
  rw [step, nextEvent, running, head]

theorem step_of_reset {s : State} {rest : List HostAccess} (head : s.script = .hardReset :: rest) :
    step s = .next (hardReset (s.withScript rest)) := by
  cases running : s.cmd with
  | none => exact step_of_idle running head
  | some w => rw [step, nextEvent, running, head]

/-- Settles O11: the poll lands during the command. -/
theorem pollWhileBusyShowsBusy : Obligations.PollWhileBusyShowsBusy := by
  unfold Obligations.PollWhileBusyShowsBusy
  intro s w rest running head
  exact ⟨busyStatusWord (Config.freeBits s.fresh), getLsbD_busyStatusWord _, step_of_poll running head⟩

/-- Settles O12: the reset lands during a command, and is the host's next access where none runs. -/
theorem hardwareResetFromAnyState : Obligations.HardwareResetFromAnyState := by
  unfold Obligations.HardwareResetFromAnyState
  exact fun s rest => step_of_reset

end Sys2Proof.Machine
end

section
/-! LEMMAS. What every step keeps (10_state.md, 20_memory.md): the parameters, the canonical memories, the chain of valid bits,
the tree of a valid `TREE`, the payload of a valid `OUT`. Each is kept by every move. -/

namespace Sys2Proof.Machine

/-! ### Parameters -/

theorem Move.par_eq {s t : State} (h : Move s t) : t.par = s.par := by
  cases h with
  | raise r => exact (raiseError_keeps s r).1
  | _ => rfl

theorem HostMove.par_eq {s t : State} (h : HostMove s t) : t.par = s.par := by
  cases h <;> rfl

/-- Settles O60: no move writes the parameters. -/
theorem stepKeepsParameters : Obligations.StepKeepsParameters := by
  unfold Obligations.StepKeepsParameters
  exact fun s t => step_keeps (P := fun u => u.par = s.par) (fun _ _ move kept => move.par_eq.trans kept)
    (fun _ _ move kept => move.par_eq.trans kept) rfl

/-! ### Canonical memories -/

theorem Canonical.raiseError {s : State} (h : Canonical s) (r : ErrorRow) : Canonical (raiseError s r) := by
  cases r with
  | uncoveredSymbol => exact { h with omem := rfl }
  | decodeCorruption => exact { h with dmem := rfl }
  | tableMismatch => exact { h with dmem := rfl }
  | _ => exact { h with }

theorem Canonical.move {s t : State} (h : Canonical s) (move : Move s t) : Canonical t := by
  cases move with
  | raise r => exact h.raiseError r
  | putFT read => exact { h with ft := Memory.wf_entriesFrom _ 0 }
  | putTREE valid ft nonempty wf => exact { h with node := Memory.wf_entriesFrom _ 0 }
  | putCT valid assigned => exact { h with ct := Memory.wf_writeAll _ rfl }
  | putOUT valid ct concat => exact { h with omem := Memory.wf_writeFrom _ h.omem 0 }
  | putDEC ct bound known => exact { h with dmem := Memory.wf_entriesFrom _ 0 }
  | _ => exact { h with }

theorem canonical_resetOf (p : Params) : Canonical (State.resetOf p) := ⟨rfl, rfl, rfl, rfl, rfl, rfl⟩

theorem Canonical.hostMove {s t : State} (h : Canonical s) (move : HostMove s t) : Canonical t := by
  cases move with
  | hardReset => exact { canonical_resetOf s.par with }
  | imem inside fits => exact { h with imem := Memory.wf_write h.imem _ _ }
  | ft inside fits => exact { h with ft := Memory.wf_write h.ft _ _ }
  | ct inside fits => exact { h with ct := Memory.wf_write h.ct _ _ }
  | omem b inside => exact { h with omem := Memory.wf_write h.omem _ _ }
  | _ => exact { h with }

/-- Settles O54: every move writes memories by operations that keep the canonical form. -/
theorem stepKeepsCanonicalMemories : Obligations.StepKeepsCanonicalMemories := by
  unfold Obligations.StepKeepsCanonicalMemories
  exact fun s t h => step_keeps (fun _ _ move kept => kept.move move) (fun _ _ move kept => kept.hostMove move) h

/-! ### The chain of valid bits and the error code -/

theorem ChainInv.move {s t : State} (h : ChainInv s) (move : Move s t) : ChainInv t := by
  cases move with
  | derivedClear => exact ⟨nofun, nofun⟩
  | raise r =>
    cases r with
    | emptyInput => exact ⟨nofun, nofun⟩
    | uncoveredSymbol => exact ⟨h.tree, nofun⟩
    | _ => exact ⟨h.tree, h.out⟩
  | putFT read => exact ⟨nofun, nofun⟩
  | putTREE valid ft nonempty wf => exact ⟨fun _ => valid, nofun⟩
  | putCT valid assigned => exact ⟨h.tree, nofun⟩
  | putOUT valid ct concat => exact ⟨h.tree, fun _ => valid⟩
  | _ => exact ⟨h.tree, h.out⟩

theorem ChainInv.hostMove {s t : State} (h : ChainInv s) (move : HostMove s t) : ChainInv t := by
  cases move with
  | hardReset => exact ⟨nofun, nofun⟩
  | ftn bound => exact ⟨nofun, nofun⟩
  | ctn bound => exact ⟨h.tree, nofun⟩
  | olen bound => exact ⟨h.tree, nofun⟩
  | ft inside fits => exact ⟨nofun, nofun⟩
  | ct inside fits => exact ⟨h.tree, nofun⟩
  | omem b inside => exact ⟨h.tree, nofun⟩
  | _ => exact ⟨h.tree, h.out⟩

theorem ErrInv.move {s t : State} (h : ErrInv s) (move : Move s t) : ErrInv t := by
  cases move with
  | ok => exact nofun
  | raise r => exact r.err_ne.2
  | _ => exact h

theorem ErrInv.hostMove {s t : State} (h : ErrInv s) (move : HostMove s t) : ErrInv t := by
  cases move with
  | hardReset => exact nofun
  | illegal => exact nofun
  | _ => exact h

/-- Settles O56: a move sets `V_TREE` and `V_OUT` only with the bit before them set, and no row has the reserved code. -/
theorem stepKeepsChainAndErrorCode : Obligations.StepKeepsChainAndErrorCode := by
  unfold Obligations.StepKeepsChainAndErrorCode
  exact fun s t chain err => step_keeps (P := fun u => ChainInv u ∧ ErrInv u) (fun _ _ move kept => ⟨kept.1.move move, kept.2.move move⟩)
    (fun _ _ move kept => ⟨kept.1.hostMove move, kept.2.hostMove move⟩) ⟨chain, err⟩

/-! ### The tree -/

theorem TreeInv.move {s t : State} (h : TreeInv s) (move : Move s t) : TreeInv t := by
  cases move with
  | derivedClear => exact nofun
  | raise r =>
    cases r with
    | emptyInput => exact nofun
    | _ => exact h
  | putFT read => exact nofun
  | putTREE valid ft nonempty wf => exact fun _ => treeOk_putTREE s nonempty wf
  | _ => exact h

theorem TreeInv.hostMove {s t : State} (h : TreeInv s) (move : HostMove s t) : TreeInv t := by
  cases move with
  | hardReset => exact nofun
  | ftn bound => exact nofun
  | ft inside fits => exact nofun
  | _ => exact h

/-- Settles O55: only `BUILD` puts a tree, of a table that satisfies `WF_FT`. -/
theorem stepKeepsTree : Obligations.StepKeepsTree := by
  unfold Obligations.StepKeepsTree
  exact fun s t h => step_keeps (fun _ _ move kept => kept.move move) (fun _ _ move kept => kept.hostMove move) h

/-! ### The outputs -/

/-- R176: what `PACK` puts is a payload that agrees with its registers. -/
theorem payloadOk_putOUT (s : State) (bits : Bits) : PayloadOk (s.putOUT (packBytes (padded bits)) bits.length (padding bits.length)) :=
  ⟨bits, packBytes (padded bits), s.putOUT_payload _ _ _, rfl, rfl, flatMap_bitsOf_packBytes_padded bits⟩

theorem OutputInv.move {s t : State} (h : OutputInv s) (move : Move s t) : OutputInv t := by
  cases move with
  | derivedClear => exact ⟨nofun, nofun⟩
  | raise r =>
    cases r with
    | emptyInput => exact ⟨nofun, h.dec⟩
    | uncoveredSymbol => exact ⟨nofun, h.dec⟩
    | decodeCorruption => exact ⟨h.out, nofun⟩
    | tableMismatch => exact ⟨h.out, nofun⟩
    | _ => exact ⟨h.out, h.dec⟩
  | putFT read => exact ⟨nofun, h.dec⟩
  | putTREE valid ft nonempty wf => exact ⟨nofun, h.dec⟩
  | putCT valid assigned => exact ⟨nofun, h.dec⟩
  | putOUT valid ct concat => exact ⟨fun _ => payloadOk_putOUT s _, h.dec⟩
  | @putDEC _ syms ct bound known => exact ⟨h.out, fun _ => congrArg Option.isSome (Memory.readRange_entriesFrom syms)⟩
  | _ => exact ⟨h.out, h.dec⟩

theorem OutputInv.hostMove {s t : State} (h : OutputInv s) (move : HostMove s t) : OutputInv t := by
  cases move with
  | hardReset => exact ⟨nofun, nofun⟩
  | ftn bound => exact ⟨nofun, h.dec⟩
  | ctn bound => exact ⟨nofun, h.dec⟩
  | olen bound => exact ⟨nofun, h.dec⟩
  | ft inside fits => exact ⟨nofun, h.dec⟩
  | ct inside fits => exact ⟨nofun, h.dec⟩
  | omem b inside => exact ⟨nofun, h.dec⟩
  | _ => exact ⟨h.out, h.dec⟩

/-- Settles O57: `OUT` and `DEC` are valid from the move that puts them to the first one that touches them. -/
theorem stepKeepsOutputs : Obligations.StepKeepsOutputs := by
  unfold Obligations.StepKeepsOutputs
  exact fun s t h => step_keeps (fun _ _ move kept => kept.move move) (fun _ _ move kept => kept.hostMove move) h

end Sys2Proof.Machine
end

section
/-! LEMMAS. Ranges (00_scope.md R8): each structure that a command puts fits the derived widths and depths, and so does what the
host writes. With it the reset state meets every invariant (10_state.md R47). -/

namespace Sys2Proof.Machine

/-! ### The entries of a memory -/

section
variable {α : Type}

theorem Memory.mem_of_read {m : Memory α} {i : Nat} {v : α} (h : m.read i = some v) : (i, v) ∈ m := by
  induction m with
  | nil => cases h
  | cons e rest ih =>
    obtain ⟨j, w⟩ := e
    rw [Memory.read] at h
    split at h
    next same =>
      cases h
      rw [same]
      exact List.mem_cons_self
    · exact List.mem_cons_of_mem _ (ih h)

theorem Memory.exists_mem_of_readRange {m : Memory α} {start n : Nat} {vs : List α} (h : m.readRange start n = some vs) {v : α}
    (hv : v ∈ vs) : ∃ i, (i, v) ∈ m := by
  obtain ⟨length, entry⟩ := (Memory.readRange_eq_some_iff ..).1 h
  obtain ⟨k, hk⟩ := List.mem_iff_getElem?.1 hv
  have lt := (List.getElem?_eq_some_iff.1 hk).1
  exact ⟨start + k, Memory.mem_of_read ((entry k (length ▸ lt)).trans hk)⟩

theorem Memory.getElem?_of_mem_entriesFrom {vs : List α} {e : Nat × α} (h : e ∈ Memory.entriesFrom 0 vs) : vs[e.1]? = some e.2 := by
  have read := (Memory.read_eq_some_iff (Memory.wf_entriesFrom vs 0) e.1 e.2).2 h
  simpa [Memory.read_entriesFrom] using read

theorem Memory.mem_writeFrom {vs : List α} {m : Memory α} {start : Nat} {e : Nat × α} (h : e ∈ Memory.writeFrom m start vs) :
    e ∈ m ∨ e.1 < start + vs.length := by
  induction vs generalizing m start with
  | nil => exact .inl h
  | cons v vs ih =>
    rw [List.length_cons]
    rcases ih h with h | h
    · rcases Memory.mem_write h with rfl | h
      · exact .inr (Nat.lt_add_of_pos_right (Nat.succ_pos _))
      · exact .inl h
    · exact .inr (by omega)

end

/-! ### FT -/

/-- Symbols that fit and are pairwise different are `NSYM_MAX` at most. -/
theorem length_le_of_nodup {xs : List Sym} {n : Nat} (distinct : xs.Nodup) (fits : ∀ x ∈ xs, x < n) : xs.length ≤ n := by
  have sub : xs ⊆ List.range n := fun x hx => List.mem_range.2 (fits x hx)
  simpa using (List.subperm_of_subset distinct sub).length_le

section
variable {s : State}

theorem Params.le_nMax_iff (p : Params) (n : Nat) : n ≤ p.nMax ↔ n < 2 ^ p.lenW := by
  have pos := Nat.two_pow_pos p.lenW
  rw [Params.nMax]
  omega

theorem InRange.lt_of_input (h : InRange s) {input : List Sym} (read : s.input = some input) : ∀ x ∈ input, x < 2 ^ s.par.symW := by
  intro x hx
  obtain ⟨i, hi⟩ := Memory.exists_mem_of_readRange read hx
  exact (h.imem _ hi).2

theorem InRange.putFT (h : InRange s) {input : List Sym} (read : s.input = some input) : InRange (s.putFT (countTable input)) := by
  have syms := h.lt_of_input read
  have length : input.length ≤ s.par.nMax := (Memory.readRange_length read).trans_le h.ilen
  have entries : (countTable input).length ≤ s.par.nsymMax := by
    rw [← List.length_map (f := FtEntry.sym), map_sym_countTable]
    exact length_le_of_nodup (nodup_eraseDups input) fun x hx => syms x (List.mem_eraseDups.1 hx)
  refine { h with ftn := entries, ft := fun e he => ?_ }
  have entry := Memory.getElem?_of_mem_entriesFrom he
  obtain ⟨pos, occurs⟩ := (mem_countTable_iff input e.2).1 (List.mem_of_getElem? entry)
  refine ⟨(List.getElem?_eq_some_iff.1 entry).1.trans_le entries, syms _ (List.count_pos_iff.1 (occurs ▸ pos)), ?_⟩
  rw [← occurs, State.putFT_par, ← Params.le_nMax_iff]
  exact List.count_le_length.trans length

/-! ### TREE -/

theorem InRange.fits_of_ftTable (h : InRange s) {table : List FtEntry} (ft : s.ftTable = some table) : ∀ e ∈ table, e.fits s.par := by
  intro e he
  obtain ⟨i, hi⟩ := Memory.exists_mem_of_readRange ft he
  exact (h.ft _ hi).2

/-- R138 (e): no node is more frequent than the root. -/
theorem Merging.freq_le {table : List FtEntry} {nodes : List Node} {pq : List Key} (h : Merging table nodes pq) :
    ∀ n ∈ nodes, n.freq ≤ (table.map FtEntry.cnt).sum := by
  induction h with
  | leaves =>
    intro n hn
    obtain ⟨e, he, rfl⟩ := List.mem_map.1 hn
    exact List.le_sum_of_mem (List.mem_map_of_mem he)
  | @merge nodes a b rest h ih =>
    intro n hn
    rcases List.mem_append.1 hn with hn | hn
    · exact ih n hn
    · have sum := h.sum_freq
      rw [List.mem_singleton.1 hn, parentOf, Node.freq, ← sum, List.map_cons, List.map_cons, List.sum_cons, List.sum_cons]
      omega

/-- R8: counts that fit `LEN_W` bits, for `NSYM_MAX` symbols at most, add up to a number of `FREQ_W` bits. -/
theorem sum_cnt_lt (p : Params) {table : List FtEntry} (length : table.length ≤ p.nsymMax) (fits : ∀ e ∈ table, e.fits p) :
    (table.map FtEntry.cnt).sum < 2 ^ p.freqW := by
  have each : ∀ c ∈ table.map FtEntry.cnt, c ≤ p.nMax := fun c hc => by
    obtain ⟨e, he, rfl⟩ := List.mem_map.1 hc
    exact (Params.le_nMax_iff ..).2 (fits e he).2
  calc (table.map FtEntry.cnt).sum ≤ table.length * p.nMax := by simpa using List.sum_le_card_nsmul _ _ each
    _ ≤ 2 ^ p.symW * p.nMax := Nat.mul_le_mul_right _ length
    _ < 2 ^ p.symW * 2 ^ p.lenW :=
        Nat.mul_lt_mul_of_pos_left ((Params.le_nMax_iff ..).1 (le_refl _)) (Nat.two_pow_pos _)
    _ = 2 ^ p.freqW := by rw [Params.freqW, pow_add, Nat.mul_comm]

theorem Merging.node_fits {p : Params} {table : List FtEntry} {nodes : List Node} {root : Key} (h : Merging table nodes [root])
    (length : table.length ≤ p.nsymMax) (fits : ∀ e ∈ table, e.fits p) {k : Nat} {n : Node} (node : nodes[k]? = some n) : n.fits p := by
  have freq : n.freq < 2 ^ p.freqW := (h.freq_le n (List.mem_of_getElem? node)).trans_lt (sum_cnt_lt p length fits)
  have hk := (List.getElem?_eq_some_iff.1 node).1
  rcases Nat.lt_or_ge k table.length with leaf | inner
  · rw [h.getElem?_of_lt leaf, List.getElem?_eq_getElem leaf] at node
    cases node
    exact ⟨(fits _ (List.getElem_mem leaf)).1, freq⟩
  · obtain ⟨l, r, node', hl, hr, -⟩ := h.exists_getElem?_eq_parentOf k inner hk
    cases node.symm.trans node'
    have index : nodes.length ≤ 2 ^ p.idxW := by
      rw [h.length_of_single, Params.idxW, pow_succ]
      rw [Params.nsymMax] at length
      omega
    exact ⟨freq, (hl.trans hk).trans_le index, (hr.trans hk).trans_le index⟩

theorem InRange.putTREE (h : InRange s) {table : List FtEntry} (ft : s.ftTable = some table) (nonempty : table ≠ []) :
    InRange (s.putTREE (buildTree table).1 (buildTree table).2) := by
  obtain ⟨nodes, root, tree, merging⟩ := exists_buildTree_eq nonempty
  have length : table.length ≤ s.par.nsymMax := (Memory.readRange_length ft).trans_le h.ftn
  have arena : nodes.length ≤ s.par.nodeMax := by
    rw [merging.length_of_single, Params.nodeMax]
    omega
  have last := merging.root_idx_succ
  rw [tree]
  refine { h with noden := arena, root := ?_, node := fun e he => ?_ }
  · rw [State.putTREE_root, State.putTREE_par]
    omega
  · have node := Memory.getElem?_of_mem_entriesFrom he
    exact ⟨(List.getElem?_eq_some_iff.1 node).1.trans_le arena, merging.node_fits length (h.fits_of_ftTable ft) node⟩

/-! ### CT -/

theorem InRange.fits_of_nodes (h : InRange s) {nodes : List Node} (read : s.nodes = some nodes) : ∀ n ∈ nodes, n.fits s.par := by
  intro n hn
  obtain ⟨i, hi⟩ := Memory.exists_mem_of_readRange read hn
  exact (h.node _ hi).2

/-- R8, R157 (b): the codes of at most `NSYM_MAX` leaves fit `CLEN_MAX` bits; the one-bit fallback code does where `SYM_W` is at least 1. -/
theorem PathCodes.len_le_clenMax {p : Params} {nodes : List Node} {root : Nat} {table : List CtEntry}
    (codes : PathCodes nodes root table) (shape : TreeShape nodes root) (wide : 1 ≤ p.symW) (length : table.length ≤ p.nsymMax) {i : Nat}
    {e : CtEntry} (entry : table[i]? = some e) : e.len ≤ p.clenMax := by
  have two : 2 ^ 1 ≤ 2 ^ p.symW := Nat.pow_le_pow_right Nat.two_pos wide
  have lt := (List.getElem?_eq_some_iff.1 entry).1
  rw [Params.clenMax]
  rw [Params.nsymMax] at length ⊢
  rcases Nat.lt_or_ge 1 table.length with many | few
  · have := codes.len_le shape many entry
    omega
  · have one : e.len = 1 := by
      rw [← e.length_code, codes.single (by omega) e (List.mem_of_getElem? entry), List.length_singleton]
    omega

theorem InRange.putCT (h : InRange s) (tree : TreeOk s) (wide : 1 ≤ s.par.symW) {entries : List (Nat × CtEntry)}
    (assigned : assignEntries s.node s.root = some entries) : InRange (s.putCT entries (leafCount s.noden)) := by
  obtain ⟨nodes, read, shape, distinct, -⟩ := tree
  obtain ⟨noden, node⟩ := (Memory.readRange_eq_some_iff ..).1 read
  obtain ⟨entries', table, assigned', written, codes, wf⟩ := shape.exists_pathCodes (mem := s.node) distinct fun i hi => by
    simpa using node i (noden ▸ hi)
  cases assigned'.symm.trans assigned
  have leaves : leafCount s.noden ≤ s.par.nsymMax := by
    have arena := h.noden
    rw [Params.nodeMax] at arena
    rw [leafCount]
    omega
  have length : table.length ≤ s.par.nsymMax := by rwa [codes.length, noden]
  refine { h with ctn := leaves, ct := fun e he => ?_ }
  have entry : table[e.1]? = some e.2 := by
    rw [← written]
    exact (Memory.read_eq_some_iff (Memory.wf_writeAll entries rfl) e.1 e.2).2 he
  obtain ⟨f, leaf⟩ := codes.leaf _ _ entry
  have short := codes.len_le_clenMax shape wide length entry
  have small : s.par.clenMax < 2 ^ s.par.clenW := Nat.sub_lt (Nat.two_pow_pos _) Nat.one_pos
  exact ⟨(List.getElem?_eq_some_iff.1 entry).1.trans_le length, (h.fits_of_nodes read _ (List.mem_of_getElem? leaf)).1,
    short.trans_lt small, (wf.fits _ (List.mem_of_getElem? entry)).trans_le (Nat.pow_le_pow_right Nat.two_pos short)⟩

/-! ### OUT and DEC -/

theorem InRange.fits_of_ctTable (h : InRange s) {table : List CtEntry} (ct : s.ctTable = some table) : ∀ e ∈ table, e.fits s.par := by
  intro e he
  obtain ⟨i, hi⟩ := Memory.exists_mem_of_readRange ct he
  exact (h.ct _ hi).2

/-- R8: the codes of the input fit `N_MAX * CLEN_MAX` bits. -/
theorem InRange.length_bits_le (h : InRange s) {table : List CtEntry} {bits : Bits} (ct : s.ctTable = some table)
    (concat : concatCodes table s.imem s.ilen 0 [] = .bits bits) : bits.length ≤ s.par.nMax * s.par.clenMax := by
  obtain ⟨es, covered, read, rfl⟩ := exists_covering_of_concatCodes concat
  have length : es.length = s.ilen := by simpa using Memory.readRange_length read
  have each : ∀ l ∈ es.map fun e => e.code.length, l ≤ s.par.clenMax := fun l hl => by
    obtain ⟨e, he, rfl⟩ := List.mem_map.1 hl
    rw [e.length_code]
    exact Nat.le_sub_one_of_lt (h.fits_of_ctTable ct e (covered e he)).2.1
  calc ([] ++ es.flatMap CtEntry.code).length = (es.map fun e => e.code.length).sum := by rw [List.nil_append, List.length_flatMap]
    _ ≤ es.length * s.par.clenMax := by simpa using List.sum_le_card_nsmul _ _ each
    _ ≤ s.par.nMax * s.par.clenMax := Nat.mul_le_mul_right _ (length.trans_le h.ilen)

theorem InRange.putOUT (h : InRange s) {table : List CtEntry} {bits : Bits} (ct : s.ctTable = some table)
    (concat : concatCodes table s.imem s.ilen 0 [] = .bits bits) :
    InRange (s.putOUT (packBytes (padded bits)) bits.length (padding bits.length)) := by
  have bound := h.length_bits_le ct concat
  have olen : 1 + (packBytes (padded bits)).length ≤ s.par.oMax := by
    have bytes := Nat.div_le_div_right (c := 8) bound
    rw [length_packBytes_padded, Params.oMax]
    omega
  refine { h with bitlen := ?_, pad := Nat.sub_le _ _, olen := olen, omem := fun e he => ?_ }
  · calc bits.length ≤ s.par.nMax * s.par.clenMax := bound
      _ ≤ s.par.nMax * 2 ^ s.par.symW := Nat.mul_le_mul_left _ (Nat.sub_le _ _)
      _ < 2 ^ s.par.lenW * 2 ^ s.par.symW := Nat.mul_lt_mul_of_pos_right ((Params.le_nMax_iff ..).1 (le_refl _)) (Nat.two_pow_pos _)
      _ = 2 ^ s.par.bitlenW := (pow_add ..).symm
  · rcases Memory.mem_writeFrom he with old | new
    · exact h.omem e old
    · rw [List.length_cons] at new
      rw [State.putOUT_par]
      omega

theorem InRange.putDEC (h : InRange s) {table : List CtEntry} {syms : List Sym} (ct : s.ctTable = some table)
    (bound : syms.length ≤ 8 * (s.olen - 1)) (known : ∀ x ∈ syms, ∃ e ∈ table, e.sym = x) : InRange (s.putDEC syms) := by
  have dlen : syms.length ≤ s.par.dMax := by
    have olen := h.olen
    rw [Params.dMax]
    omega
  refine { h with dlen := dlen, dmem := fun e he => ?_ }
  have entry := Memory.getElem?_of_mem_entriesFrom he
  obtain ⟨c, hc, sym⟩ := known e.2 (List.mem_of_getElem? entry)
  exact ⟨(List.getElem?_eq_some_iff.1 entry).1.trans_le dlen, sym ▸ (h.fits_of_ctTable ct c hc).1⟩

/-! ### The moves -/

theorem inRange_resetOf (p : Params) : InRange (State.resetOf p) where
  ilen := Nat.zero_le _
  ftn := Nat.zero_le _
  noden := Nat.zero_le _
  root := Nat.zero_le _
  ctn := Nat.zero_le _
  bitlen := Nat.two_pow_pos _
  pad := Nat.zero_le _
  olen := Nat.zero_le _
  dlen := Nat.zero_le _
  imem := nofun
  ft := nofun
  node := nofun
  ct := nofun
  omem := nofun
  dmem := nofun

theorem InRange.raiseError (h : InRange s) (r : ErrorRow) : InRange (raiseError s r) := by
  cases r with
  | uncoveredSymbol =>
    exact { h with bitlen := Nat.two_pow_pos _, pad := Nat.zero_le _, olen := Nat.zero_le _, omem := nofun }
  | decodeCorruption => exact { h with dlen := Nat.zero_le _, dmem := nofun }
  | tableMismatch => exact { h with dlen := Nat.zero_le _, dmem := nofun }
  | _ => exact { h with }

theorem InRange.move {t : State} (h : InRange s) (wide : 1 ≤ s.par.symW) (tree : TreeInv s) (move : Move s t) : InRange t := by
  cases move with
  | derivedClear =>
    exact { h with ftn := Nat.zero_le _, noden := Nat.zero_le _, root := Nat.zero_le _, ctn := Nat.zero_le _,
                   bitlen := Nat.two_pow_pos _, pad := Nat.zero_le _, olen := Nat.zero_le _, dlen := Nat.zero_le _ }
  | dropInput => exact { h with ilen := Nat.zero_le _ }
  | ok => exact { h with }
  | raise r => exact h.raiseError r
  | putFT read => exact h.putFT read
  | putTREE valid ft nonempty wf => exact h.putTREE ft nonempty
  | putCT valid assigned => exact h.putCT (tree valid) wide assigned
  | putOUT valid ct concat => exact h.putOUT ct concat
  | putDEC ct bound known => exact h.putDEC ct bound known

/-- A write of a memory inside it, of an entry that fits. -/
theorem Memory.forall_mem_write {α : Type} {m : Memory α} {Q : Nat × α → Prop} (old : ∀ e ∈ m, Q e) {i : Nat} {v : α} (new : Q (i, v)) :
    ∀ e ∈ m.write i v, Q e := fun e he =>
  (Memory.mem_write he).elim (fun same => same ▸ new) (old e)

theorem InRange.hostMove {t : State} (h : InRange s) (move : HostMove s t) : InRange t := by
  cases move with
  | outside => exact { h with }
  | hardReset => exact { inRange_resetOf s.par with }
  | illegal => exact h.raiseError _
  | ilen fits => exact { h with ilen := (Params.le_nMax_iff ..).2 fits }
  | ftn bound => exact { h with ftn := bound }
  | ctn bound => exact { h with ctn := bound }
  | olen bound => exact { h with olen := bound }
  | imem inside fits => exact { h with imem := Memory.forall_mem_write h.imem ⟨inside, fits⟩ }
  | ft inside fits => exact { h with ft := Memory.forall_mem_write h.ft ⟨inside, decodeFt_fits s.par fits⟩ }
  | ct inside fits => exact { h with ct := Memory.forall_mem_write h.ct ⟨inside, decodeCt_fits s.par fits⟩ }
  | omem b inside => exact { h with omem := Memory.forall_mem_write h.omem inside }

end

/-- Settles O58: every move keeps the ranges, that of `ASSIGN` because a valid `TREE`, which every move keeps too, is a tree. -/
theorem stepKeepsRanges : Obligations.StepKeepsRanges := by
  unfold Obligations.StepKeepsRanges
  intro s t wide tree range h
  refine (step_keeps (P := fun u => 1 ≤ u.par.symW ∧ TreeInv u ∧ InRange u) ?_ ?_ ⟨wide, tree, range⟩ h).2.2
  · rintro u v move ⟨wide, tree, range⟩
    exact ⟨move.par_eq.symm ▸ wide, tree.move move, range.move wide tree move⟩
  · rintro u v move ⟨wide, tree, range⟩
    exact ⟨move.par_eq.symm ▸ wide, tree.hostMove move, range.hostMove move⟩

/-- Settles O59: nothing is valid, every register is 0 and no memory lists an entry. -/
theorem resetMeetsInvariants : Obligations.ResetMeetsInvariants := by
  unfold Obligations.ResetMeetsInvariants
  exact fun p => ⟨canonical_resetOf p, nofun, ⟨nofun, nofun⟩, ⟨nofun, nofun⟩, inRange_resetOf p, nofun⟩

end Sys2Proof.Machine
end
